-- ==== Sys2Proof/Word.lean ====
section
/-! DEFINITION. The machine's bit vectors: data bytes, instruction words and their two fields (spec/00_scope.md R10,
spec/30_encoding.md R65). -/

namespace Sys2Proof

/-- A data byte, a ModBus address, a function code or an exception code (R10). -/
abbrev Byte := BitVec 8

/-- An instruction word, and the CRC accumulator (R10, R65). -/
abbrev Word := BitVec 16

/-- The command field `w[15:12]` of an instruction word (R65). -/
abbrev Nibble := BitVec 4

/-- The payload field `w[11:0]` of an instruction word (R65). -/
abbrev Payload := BitVec 12

/-- A microsecond argument of the write path, a u32 (R118, R119). -/
abbrev Micros := BitVec 32

end Sys2Proof
end

