-- ==== Sys2Proof/Config.lean ====
section
/-! DEFINITION. The configuration record (spec/00_scope.md R11, spec/10_state.md R30 to R34), the decoder grammar
(spec/44_dispatch.md R152) and the default ILC registry (spec/46_ilc_layer.md R190 to R201).  The record is fixed at
construction; the machine's state carries it so that every statement about a state holds for every configuration. -/

namespace Sys2Proof

/-- The frame dialect (R30): `ilc` is the hardware in scope, `plain` the simulator's. -/
inductive Dialect where
  | ilc
  | plain
  deriving DecidableEq, Repr

/-- `LONG_ROUNDING` (R120). -/
inductive Rounding where
  | ceilPlusOne
  | truncPlusOne
  deriving DecidableEq, Repr

/-- `RX_DELIMITER_POLICY` (R161). -/
inductive DelimiterPolicy where
  | keep
  | skip
  deriving DecidableEq, Repr

/-- `MODE_REQ_WIDTH`, 8 or 16 bits (R195). -/
inductive ModeWidth where
  | bits8
  | bits16
  deriving DecidableEq, Repr

/-- The six groups of a calibration report, in wire order (R198). -/
inductive CalGroup where
  | mainADCK
  | mainOffset
  | mainSensitivity
  | backupADCK
  | backupOffset
  | backupSensitivity
  deriving DecidableEq, Repr

/-- The names decoder steps bind values to (R152, R193, R198 to R200); `other` is for a host's own decoders. -/
inductive FieldName where
  | length
  | uniqueId
  | ilcAppType
  | networkNodeType
  | ilcSelectedOptions
  | networkNodeOptions
  | majorRev
  | minorRev
  | firmwareName
  | mode
  | status
  | faults
  | newAddress
  | encoderPosition
  | loadCellForce
  | primaryPush
  | primaryPull
  | secondaryPull
  | secondaryPush
  | cal (g : CalGroup) (i : Fin 4)
  | other (n : Nat)
  deriving DecidableEq, Repr

/-- Scalar reads of more than one byte (R127 to R131, R133). -/
inductive WideKind where
  | u16
  | s16
  | u32
  | s32
  | u64
  | s64
  | f32
  | u48
  | timestamp
  deriving DecidableEq, Repr

/-- Every scalar read kind of the decoder grammar (R152); strings have a step of their own. -/
inductive ReadKind where
  | u8
  | s8
  | wide (k : WideKind)
  deriving DecidableEq, Repr

/-- The length of a `string(n)` read: a constant, or `v - k` for a name bound earlier (R152). -/
inductive StringLength where
  | const (n : Nat)
  | minus (v : FieldName) (k : Nat)
  deriving DecidableEq, Repr

/-- One decoder step (R152).  No step writes or seats the buffer, dispatches, or touches the commanded queue: such steps
do not exist in the grammar. -/
inductive DecoderStep where
  | read (k : ReadKind) (name : FieldName)
  | readString (n : StringLength) (name : FieldName)
  | recordChanges
  | pauseRecord
  | checkCrc
  | setMode (name : FieldName)
  | emit
  | emitIfChanged
  deriving DecidableEq, Repr

/-- A registry entry `(normal, decoder, error, handler)` (R150).  A handler is external code; the model knows it by a
number (R169). -/
structure Entry where
  normal  : Byte
  decoder : List DecoderStep
  error   : Byte
  handler : Option Nat
  deriving DecidableEq, Repr

/-- `TIMEOUT_US[f]` of every ILC function but 65 (R201). -/
structure Timeouts where
  serverId              : Micros
  serverStatus          : Micros
  setTempAddress        : Micros
  resetServer           : Micros
  hardpointForceStatus  : Micros
  offsetAndSensitivity  : Micros
  calibrationData       : Micros
  mezzaninePressure     : Micros
  deriving DecidableEq, Repr

/-- The configuration record (R11, R30).  With `dialect = plain` the fields `txFrameend`, `rxEndframe`, `waitShortCmd` and
`waitLongCmd` hold the OPEN parameters `PLAIN_*` of R32. `none` in a capacity means unbounded; a hook is external code
known by a number, `none` being the no-op of R168. -/
structure Config where
  dialect           : Dialect
  txMask            : Word
  txFrameend        : Word
  rxEndframe        : Word
  waitShortCmd      : Nibble
  waitLongCmd       : Nibble
  longRounding      : Rounding
  bufWords          : Option Nat
  qDepth            : Option Nat
  broadcastSet      : List Byte
  registry          : List Entry
  rxDelimiterPolicy : DelimiterPolicy
  preProcess        : Option Nat
  postProcess       : Option Nat
  modeReqWidth      : ModeWidth
  timeoutUs         : Timeouts
  alwaysTrigger     : List Byte
  deriving DecidableEq, Repr

/-! ## The free values -/

/-- The cursor after `UnknownResponse`: "any value", of which no proof may use one (R224, spec/93 row 1).  Applied to the
counter `State.free`; assumption log entry 3. -/
opaque Config.freeCursor : Nat → Nat

/-- A data byte of a broadcast past the end of the data: the source does not say what `data[i]` is there (R166; assumption
log entry 13). -/
opaque Config.freeByte : Nat → Byte

/-- A word that the driver hands on and no rule gives: one past the end of the list given, one a read outside the two-phase
contract returns, or the count of more words than a u16 counts (R233, R235; assumption log entries 10 and 14). -/
opaque Config.freeWord : Nat → Word

/-- The words left waiting after a read of the response FIFO outside its contract (R235; assumption log entry 14). -/
opaque Config.freeWords : Nat → List Word

/-- The count outstanding after such a read (R235; assumption log entry 14). -/
opaque Config.freeCount : Nat → Option Word

/-- The number a decoder step takes from a name bound to a string, which is none (R152, R192; assumption log entry 28). -/
opaque Config.freeNumber : Nat → Int

/-- `PLAIN_TX_FRAMEEND`, OPEN (R32). -/
opaque Config.plainTxFrameend : Word

/-- `PLAIN_RX_ENDFRAME`, OPEN (R32). -/
opaque Config.plainRxEndframe : Word

/-- `PLAIN_WAIT_SHORT_CMD`, OPEN (R32). -/
opaque Config.plainWaitShortCmd : Nibble

/-- `PLAIN_WAIT_LONG_CMD`, OPEN (R32). -/
opaque Config.plainWaitLongCmd : Nibble

/-! ## Registry lookups (R150) -/

/-- The entry whose normal code is `f`: `IsNormal` and `DecoderOf`. -/
def Config.normalEntry (c : Config) (f : Byte) : Option Entry := c.registry.find? (fun e => e.normal = f)

/-- The entry whose error code is `f`: `IsError`, `NormalOf` and `HandlerOf`. -/
def Config.errorEntry (c : Config) (f : Byte) : Option Entry := c.registry.find? (fun e => e.error = f)

/-- Checks 1 to 4 of R150 on a registry. -/
def registryWf (r : List Entry) : Bool :=
  r.all (fun e => e.normal ≠ e.error)
    && decide ((r.map Entry.normal).Nodup)
    && decide ((r.map Entry.error).Nodup)
    && r.all (fun e => r.all (fun e' => e.normal ≠ e'.error))

/-- The steps use only names in `bound`, or names that an earlier one of them bound. -/
def decoderNamesOk : List FieldName → List DecoderStep → Bool
  | _, [] => true
  | bound, .read _ n :: rest => decoderNamesOk (n :: bound) rest
  | bound, .readString (.const _) n :: rest => decoderNamesOk (n :: bound) rest
  | bound, .readString (.minus v _) n :: rest => bound.contains v && decoderNamesOk (n :: bound) rest
  | bound, .setMode n :: rest => bound.contains n && decoderNamesOk bound rest
  | bound, .recordChanges :: rest => decoderNamesOk bound rest
  | bound, .pauseRecord :: rest => decoderNamesOk bound rest
  | bound, .checkCrc :: rest => decoderNamesOk bound rest
  | bound, .emit :: rest => decoderNamesOk bound rest
  | bound, .emitIfChanged :: rest => decoderNamesOk bound rest

/-- Every decoder uses only names bound earlier, as the grammar of R152 asks. -/
def decodersOk (r : List Entry) : Bool := r.all (fun e => decoderNamesOk [] e.decoder)

/-- A configuration a block can be built with (R11, R30, R150, R152): positive capacities and an acceptable registry. -/
def Config.wf (c : Config) : Bool :=
  c.bufWords ≠ some 0 && c.qDepth ≠ some 0 && registryWf c.registry && decodersOk c.registry

/-! ## The default decoders and the ILC registry -/

/-- The parameters the ILC registry is built from: `MODE_FIELD`, `EM_ERROR_CODES`, `ILC_HANDLERS` (R192, R201, R190). -/
structure RegistryParams where
  modeField18            : FieldName
  modeField65            : FieldName
  hardpointError         : Byte
  offsetError            : Byte
  calibrationError       : Byte
  mezzanineError         : Byte
  ilcHandlers            : Option Nat
  deriving DecidableEq, Repr

/-- `DECODERS[17]` (R193). -/
def decoder17 : List DecoderStep :=
  [.recordChanges, .read .u8 .length, .read (.wide .u48) .uniqueId, .read .u8 .ilcAppType,
   .read .u8 .networkNodeType, .read .u8 .ilcSelectedOptions, .read .u8 .networkNodeOptions,
   .read .u8 .majorRev, .read .u8 .minorRev, .readString (.minus .length 12) .firmwareName,
   .checkCrc, .emitIfChanged]

/-- `DECODERS[18]` (R193). -/
def decoder18 (modeField : FieldName) : List DecoderStep :=
  [.recordChanges, .read .u8 .mode, .read (.wide .u16) .status, .read (.wide .u16) .faults,
   .checkCrc, .setMode modeField, .emitIfChanged]

/-- `DECODERS[65]` (R193). -/
def decoder65 (modeField : FieldName) : List DecoderStep :=
  [.recordChanges, .read (.wide .u16) .mode, .checkCrc, .setMode modeField, .emitIfChanged]

/-- `DECODERS[72]` (R193). -/
def decoder72 : List DecoderStep := [.read .u8 .newAddress, .checkCrc, .emit]

/-- `DECODERS[107]` (R193). -/
def decoder107 : List DecoderStep := [.checkCrc, .emit]

/-- `DECODERS[67]` (R200). -/
def decoder67 : List DecoderStep :=
  [.read .u8 .status, .read (.wide .s32) .encoderPosition, .read (.wide .f32) .loadCellForce, .checkCrc, .emit]

/-- `DECODERS[81]` (R197). -/
def decoder81 : List DecoderStep := [.checkCrc, .emit]

/-- The four float reads of one calibration group (R198). -/
def calReads (g : CalGroup) : List DecoderStep :=
  [.read (.wide .f32) (.cal g 0), .read (.wide .f32) (.cal g 1), .read (.wide .f32) (.cal g 2),
   .read (.wide .f32) (.cal g 3)]

/-- `DECODERS[110]` (R198): six groups of four floats, group-major. -/
def decoder110 : List DecoderStep :=
  calReads .mainADCK ++ calReads .mainOffset ++ calReads .mainSensitivity ++ calReads .backupADCK
    ++ calReads .backupOffset ++ calReads .backupSensitivity ++ [.checkCrc, .emit]

/-- `DECODERS[119]` (R199), in wire order. -/
def decoder119 : List DecoderStep :=
  [.read (.wide .f32) .primaryPush, .read (.wide .f32) .primaryPull, .read (.wide .f32) .secondaryPull,
   .read (.wide .f32) .secondaryPush, .checkCrc, .emit]

/-- The five generic entries of R193. -/
def genericRegistry (p : RegistryParams) : List Entry :=
  [⟨17, decoder17, 145, p.ilcHandlers⟩, ⟨18, decoder18 p.modeField18, 146, p.ilcHandlers⟩,
   ⟨65, decoder65 p.modeField65, 193, p.ilcHandlers⟩, ⟨72, decoder72, 200, p.ilcHandlers⟩,
   ⟨107, decoder107, 235, p.ilcHandlers⟩]

/-- The registry of the electromechanical-pneumatic instance (R190): the generic entries and those of R197 to R200. -/
def emRegistry (p : RegistryParams) : List Entry :=
  genericRegistry p ++
    [⟨67, decoder67, p.hardpointError, none⟩, ⟨81, decoder81, p.offsetError, none⟩,
     ⟨110, decoder110, p.calibrationError, none⟩, ⟨119, decoder119, p.mezzanineError, none⟩]

/-- The default parameters: `MODE_FIELD[f] = mode`, `EM_ERROR_CODES[f] = f + 0x80`, no handler (R192, R201, R190). -/
def RegistryParams.default : RegistryParams := ⟨.mode, .mode, 195, 209, 238, 247, none⟩

/-- The timeouts R201 gives a model that needs a value: 1800 for the report functions, 36500 for function 81. -/
def Timeouts.default : Timeouts := ⟨1800, 1800, 1800, 1800, 1800, 36500, 1800, 1800⟩

/-- The configuration of the hardware in scope (R11, R30, R31, R34). -/
def Config.ilc : Config where
  dialect := .ilc
  txMask := 0x1200
  txFrameend := 0x20DA
  rxEndframe := 0xA000
  waitShortCmd := 0x6
  waitLongCmd := 0x9
  longRounding := .ceilPlusOne
  bufWords := none
  qDepth := none
  broadcastSet := [0, 148, 149, 250]
  registry := emRegistry .default
  rxDelimiterPolicy := .keep
  preProcess := none
  postProcess := none
  modeReqWidth := .bits16
  timeoutUs := .default
  alwaysTrigger := []

/-- The simulator's dialect, with its OPEN control words (R32). -/
def Config.plainSimulator : Config :=
  { Config.ilc with
    dialect := .plain
    txFrameend := Config.plainTxFrameend
    rxEndframe := Config.plainRxEndframe
    waitShortCmd := Config.plainWaitShortCmd
    waitLongCmd := Config.plainWaitLongCmd }

end Sys2Proof
end

