-- ==== Sys2Proof/Syntax.lean ====
section
/-! DEFINITION. The two-level instruction set (spec/00_scope.md R2): one constructor per row of spec/opcode_table.json.
Level 1 is the 16-bit instruction word (format `IW16`), level 2 the frame header whose function byte the row names
(format `MBFN8`).  A constructor carries EVERY bit of its encoding, the bits the block ignores included, so that no bit is
lost between a word and its instruction. -/

namespace Sys2Proof

/-- One constructor per row of the opcode table.  Level 1 takes the bits of its word; level 2 takes the sender address of
its frame. -/
inductive Instr where
  /-- R90: bits 11:9, the data byte, bit 0. -/
  | write (hi : BitVec 3) (b : Byte) (lo : BitVec 1)
  /-- R91: the whole word `TX_FRAMEEND`. -/
  | frameend
  /-- R103: nibble 0x2, not `TX_FRAMEEND`. -/
  | badSentinel2 (payload : Payload)
  /-- R92: TX_TIMESTAMP, payload ignored. -/
  | txts (payload : Payload)
  /-- R93: DELAY, microseconds. -/
  | delay (us : Payload)
  /-- R94: LONG_DELAY, milliseconds. -/
  | ldelay (ms : Payload)
  /-- R95: TX_WAIT_RX, microseconds. -/
  | waitrx (us : Payload)
  /-- R96: TX_IRQTRIGGER, payload ignored. -/
  | irq (payload : Payload)
  /-- R97: TX_WAIT_TRIGGER, payload ignored. -/
  | waittrig (payload : Payload)
  /-- R98: TX_WAIT_LONG_RX, milliseconds. -/
  | lwaitrx (ms : Payload)
  /-- R99: the whole word `RX_ENDFRAME`. -/
  | rxend
  /-- R103: nibble 0xA, not `RX_ENDFRAME`. -/
  | badSentinelA (payload : Payload)
  /-- R100: RX_TIMESTAMP, payload ignored. -/
  | rxts (payload : Payload)
  /-- R101: nibble 0x0. -/
  | reserved0 (payload : Payload)
  /-- R102: nibble 0xC. -/
  | reservedC (payload : Payload)
  /-- R102: nibble 0xD. -/
  | reservedD (payload : Payload)
  /-- R102: nibble 0xE. -/
  | reservedE (payload : Payload)
  /-- R102: nibble 0xF. -/
  | reservedF (payload : Payload)
  /-- R69, R101: a raw byte of the PLAIN dialect. -/
  | byte (b : Byte)
  /-- R193: function 17. -/
  | serverId (address : Byte)
  /-- R193: error code of 17. -/
  | serverIdError (address : Byte)
  /-- R193: function 18. -/
  | serverStatus (address : Byte)
  /-- R193: error code of 18. -/
  | serverStatusError (address : Byte)
  /-- R193: function 65. -/
  | changeMode (address : Byte)
  /-- R193: error code of 65. -/
  | changeModeError (address : Byte)
  /-- R193: function 72. -/
  | setTempAddress (address : Byte)
  /-- R193: error code of 72. -/
  | setTempAddressError (address : Byte)
  /-- R193: function 107. -/
  | resetServer (address : Byte)
  /-- R193: error code of 107. -/
  | resetServerError (address : Byte)
  /-- R200: function 67. -/
  | hardpointForceStatus (address : Byte)
  /-- R201: default error code of 67. -/
  | hardpointForceStatusError (address : Byte)
  /-- R197: function 81. -/
  | setOffsetAndSensitivity (address : Byte)
  /-- R201: default error code of 81. -/
  | setOffsetAndSensitivityError (address : Byte)
  /-- R198: function 110. -/
  | reportCalibrationData (address : Byte)
  /-- R201: default error code of 110. -/
  | reportCalibrationDataError (address : Byte)
  /-- R199: function 119. -/
  | mezzaninePressure (address : Byte)
  /-- R201: default error code of 119. -/
  | mezzaninePressureError (address : Byte)
  deriving DecidableEq, Repr

/-- The two levels of the instruction set (R2). -/
inductive Level where
  | word
  | frame
  deriving DecidableEq, Repr

/-- The class `decode_word` returns (R73), with the fields the rule gives it. -/
inductive WordClass where
  | write (b : Byte)
  | txFrameend
  | badSentinel (n : Nibble) (payload : Payload)
  | txTimestamp
  | delay (us : Payload)
  | longDelay (ms : Payload)
  | txWaitRx (us : Payload)
  | txIrqtrigger
  | txWaitTrigger
  | txWaitLongRx (ms : Payload)
  | rxEndframe
  | rxTimestamp
  | reserved (n : Nibble)
  | byte (b : Byte)
  deriving DecidableEq, Repr

end Sys2Proof
end

