-- ==== Sys2Proof/Decode.lean ====
section
/-! DEFINITION. The opcode decoder of the instruction word (spec/30_encoding.md R73), the decoder of a frame header
(R77 to R79, R88), the data-byte codec of the two dialects (R67 to R69), and the encoder written from the same tables. -/

namespace Sys2Proof

/-! ## Fields and the data-byte codec -/

/-- `w[15:12]` (R65). -/
def nibble (w : Word) : Nibble := w.extractLsb' 12 4

/-- `w[11:0]` (R65). -/
def payload (w : Word) : Payload := w.extractLsb' 0 12

/-- The word with command nibble `n` and payload `p` (R65). -/
def mkWord (n : Nibble) (p : Payload) : Word := n ++ p

/-- The payload of a WRITE word: bits 11:9, the data byte in 8:1, bit 0 (R67). -/
def mkWritePayload (hi : BitVec 3) (b : Byte) (lo : BitVec 1) : Payload := hi ++ b ++ lo

/-- `ENC_BYTE` (R31, R32). -/
def Config.encByte (c : Config) (b : Byte) : Word :=
  match c.dialect with
  | .ilc => c.txMask ||| (b.setWidth 16 <<< 1)
  | .plain => b.setWidth 16

/-- `DEC_BYTE` (R31, R32): `w[8:1]` in the ILC dialect, `w[7:0]` in the PLAIN one.  Every other bit is ignored (R68, R69). -/
def Config.decByte (c : Config) (w : Word) : Byte :=
  match c.dialect with
  | .ilc => w.extractLsb' 1 8
  | .plain => w.extractLsb' 0 8

/-- The word a data byte is laid out as when a program is placed in the buffer from outside: `DEC_BYTE` reads it back
under every configuration. -/
def Config.layByte (c : Config) (b : Byte) : Word :=
  match c.dialect with
  | .ilc => 0x1200 ||| (b.setWidth 16 <<< 1)
  | .plain => b.setWidth 16

/-! ## Level 1: the instruction word -/

/-- The instruction a word is by its nibble alone, after the whole-word tests (R66, R73). -/
def decodeNibble (w : Word) : Instr :=
  match (nibble w).toNat with
  | 0 => .reserved0 (payload w)
  | 1 => .write (w.extractLsb' 9 3) (w.extractLsb' 1 8) (w.extractLsb' 0 1)
  | 2 => .badSentinel2 (payload w)
  | 3 => .txts (payload w)
  | 4 => .delay (payload w)
  | 5 => .ldelay (payload w)
  | 6 => .waitrx (payload w)
  | 7 => .irq (payload w)
  | 8 => .waittrig (payload w)
  | 9 => .lwaitrx (payload w)
  | 10 => .badSentinelA (payload w)
  | 11 => .rxts (payload w)
  | 12 => .reservedC (payload w)
  | 13 => .reservedD (payload w)
  | 14 => .reservedE (payload w)
  | _ => .reservedF (payload w)

/-- `decode_word` (R73), total on every word, its tests in the rule's order; it keeps every bit of the word. -/
def decodeWord (c : Config) (w : Word) : Instr :=
  if w = c.txFrameend then .frameend
  else if w = c.rxEndframe then .rxend
  else if c.dialect = .plain ∧ w.extractLsb' 8 8 = 0 then .byte (w.extractLsb' 0 8)
  else decodeNibble w

/-- The reserved command nibbles: 0x0 in the ILC dialect and 0xC to 0xF (R74, spec/93 row 10).  A wait command of the PLAIN
dialect may be any nibble (R30, R32), and then that nibble is a command (DEDUCED, assumption log entry 30). -/
def Config.reservedNibble (c : Config) (n : Nibble) : Bool :=
  match c.dialect with
  | .ilc => n = 0x0 || 0xC ≤ n.toNat
  | .plain => 0xC ≤ n.toNat && n ≠ c.waitShortCmd && n ≠ c.waitLongCmd

/-- A word the host must not send: one of a reserved nibble that is no whole-word sentinel (R73, R74). -/
def Config.reservedWord (c : Config) (w : Word) : Bool :=
  w ≠ c.txFrameend && w ≠ c.rxEndframe && c.reservedNibble (nibble w)

/-! ## Level 2: the frame header -/

/-- Why a list of words is no instruction. -/
inductive DecodeError where
  /-- There are fewer words than the instruction has. -/
  | endOfWords
  /-- The function byte is no row of the opcode table. -/
  | notInTable (function : Byte)
  deriving DecidableEq, Repr

/-- The row of the opcode table a function byte names (R88, R193, R197 to R201). -/
def decodeFrame (address function : Byte) : Except DecodeError Instr :=
  match function.toNat with
  | 17 => .ok (.serverId address)
  | 145 => .ok (.serverIdError address)
  | 18 => .ok (.serverStatus address)
  | 146 => .ok (.serverStatusError address)
  | 65 => .ok (.changeMode address)
  | 193 => .ok (.changeModeError address)
  | 72 => .ok (.setTempAddress address)
  | 200 => .ok (.setTempAddressError address)
  | 107 => .ok (.resetServer address)
  | 235 => .ok (.resetServerError address)
  | 67 => .ok (.hardpointForceStatus address)
  | 195 => .ok (.hardpointForceStatusError address)
  | 81 => .ok (.setOffsetAndSensitivity address)
  | 209 => .ok (.setOffsetAndSensitivityError address)
  | 110 => .ok (.reportCalibrationData address)
  | 238 => .ok (.reportCalibrationDataError address)
  | 119 => .ok (.mezzaninePressure address)
  | 247 => .ok (.mezzaninePressureError address)
  | _ => .error (.notInTable function)

/-- Decoding at either level: the instruction and the words after it. -/
def decode (c : Config) : Level → List Word → Except DecodeError (Instr × List Word)
  | .word, w :: rest => .ok (decodeWord c w, rest)
  | .frame, a :: f :: rest =>
    match decodeFrame (c.decByte a) (c.decByte f) with
    | .ok i => .ok (i, rest)
    | .error e => .error e
  | .word, [] => .error .endOfWords
  | .frame, [] => .error .endOfWords
  | .frame, [_] => .error .endOfWords

/-! ## The encoder -/

/-- The level an instruction belongs to (R2). -/
def Instr.level : Instr → Level
  | .write _ _ _ => .word
  | .frameend => .word
  | .badSentinel2 _ => .word
  | .txts _ => .word
  | .delay _ => .word
  | .ldelay _ => .word
  | .waitrx _ => .word
  | .irq _ => .word
  | .waittrig _ => .word
  | .lwaitrx _ => .word
  | .rxend => .word
  | .badSentinelA _ => .word
  | .rxts _ => .word
  | .reserved0 _ => .word
  | .reservedC _ => .word
  | .reservedD _ => .word
  | .reservedE _ => .word
  | .reservedF _ => .word
  | .byte _ => .word
  | .serverId _ => .frame
  | .serverIdError _ => .frame
  | .serverStatus _ => .frame
  | .serverStatusError _ => .frame
  | .changeMode _ => .frame
  | .changeModeError _ => .frame
  | .setTempAddress _ => .frame
  | .setTempAddressError _ => .frame
  | .resetServer _ => .frame
  | .resetServerError _ => .frame
  | .hardpointForceStatus _ => .frame
  | .hardpointForceStatusError _ => .frame
  | .setOffsetAndSensitivity _ => .frame
  | .setOffsetAndSensitivityError _ => .frame
  | .reportCalibrationData _ => .frame
  | .reportCalibrationDataError _ => .frame
  | .mezzaninePressure _ => .frame
  | .mezzaninePressureError _ => .frame

/-- The two words of a frame header, `[address][function]` (R77). -/
def Config.encHeader (c : Config) (address function : Byte) : List Word := [c.encByte address, c.encByte function]

/-- The words of an instruction (R66 to R72, R77). -/
def encode (c : Config) : Instr → List Word
  | .write hi b lo => [mkWord 0x1 (mkWritePayload hi b lo)]
  | .frameend => [c.txFrameend]
  | .badSentinel2 p => [mkWord 0x2 p]
  | .txts p => [mkWord 0x3 p]
  | .delay us => [mkWord 0x4 us]
  | .ldelay ms => [mkWord 0x5 ms]
  | .waitrx us => [mkWord 0x6 us]
  | .irq p => [mkWord 0x7 p]
  | .waittrig p => [mkWord 0x8 p]
  | .lwaitrx ms => [mkWord 0x9 ms]
  | .rxend => [c.rxEndframe]
  | .badSentinelA p => [mkWord 0xA p]
  | .rxts p => [mkWord 0xB p]
  | .reserved0 p => [mkWord 0x0 p]
  | .reservedC p => [mkWord 0xC p]
  | .reservedD p => [mkWord 0xD p]
  | .reservedE p => [mkWord 0xE p]
  | .reservedF p => [mkWord 0xF p]
  | .byte b => [b.setWidth 16]
  | .serverId a => c.encHeader a 17
  | .serverIdError a => c.encHeader a 145
  | .serverStatus a => c.encHeader a 18
  | .serverStatusError a => c.encHeader a 146
  | .changeMode a => c.encHeader a 65
  | .changeModeError a => c.encHeader a 193
  | .setTempAddress a => c.encHeader a 72
  | .setTempAddressError a => c.encHeader a 200
  | .resetServer a => c.encHeader a 107
  | .resetServerError a => c.encHeader a 235
  | .hardpointForceStatus a => c.encHeader a 67
  | .hardpointForceStatusError a => c.encHeader a 195
  | .setOffsetAndSensitivity a => c.encHeader a 81
  | .setOffsetAndSensitivityError a => c.encHeader a 209
  | .reportCalibrationData a => c.encHeader a 110
  | .reportCalibrationDataError a => c.encHeader a 238
  | .mezzaninePressure a => c.encHeader a 119
  | .mezzaninePressureError a => c.encHeader a 247

/-! ## The table's words -/

/-- The configuration under which the opcode table's row for a word is the row its decoder picks: BYTE is a row of the
PLAIN dialect and is tested before the nibble rows, every other row is the ILC dialect's (assumption log entry 6). -/
def tableDialect (w : Word) : Dialect := if w.extractLsb' 8 8 = 0 then .plain else .ilc

/-- The words a table row's bits stand for: one instruction word, or a frame header with the function byte of the row and
address 0. -/
def decodeTableWord (nbits w : Nat) : Option Instr :=
  if nbits = 16 then
    some (decodeWord { Config.ilc with dialect := tableDialect (BitVec.ofNat 16 w) } (BitVec.ofNat 16 w))
  else if nbits = 8 then
    match decodeFrame 0 (BitVec.ofNat 8 w) with
    | .ok i => some i
    | .error _ => none
  else none

end Sys2Proof
end

