-- ==== Sys2Proof/Machine/Commands.lean ====
section
/-! DEFINITION. The block's values, error kinds, results and events (spec/00_scope.md R9, spec/60_exceptions.md R210, R227)
and the host's operations as data (R8, spec/30_encoding.md R85): what the outside world can ask of the block. -/

namespace Sys2Proof.Machine

open Sys2Proof

/-- The value of a successful operation (R9).  Integers are the numbers the read rules return, a float is its bit pattern
(R54). -/
inductive Value where
  | none
  | uint (v : Nat)
  | sint (v : Int)
  | f32 (bits : BitVec 32)
  | bytes (s : List Byte)
  | bool (b : Bool)
  | word (w : Word)
  | words (ws : List Word)
  | wordClass (k : WordClass)
  | recording (same : Bool) (fingerprint : List Byte)
  deriving DecidableEq, Repr

/-- The error kinds with their info fields (R210). -/
inductive Err where
  | endOfBuffer (offset : Nat)
  | crcError (calculated received : Word)
  | unknownResponse (address function : Byte)
  | exception (address function code : Byte)
  | unmatchedFunction (address function : Byte) (expected : Option (Byte × Byte))
  | framingError (word : Word) (offset : Nat)
  | commandedNonEmpty (pairs : List (Byte × Byte))
  | bufferFull (words : Nat)
  | queueFull (address function : Byte)
  deriving DecidableEq, Repr

/-- The result every operation ends in: `Ok(v)` or `Err(kind, info)` (R9). -/
inductive Result where
  | ok (v : Value)
  | err (e : Err)
  deriving DecidableEq, Repr

/-- The names a decoder has bound so far, oldest first (R152). -/
abbrev Bound := List (FieldName × Value)

/-- An output to the host (R152, R159, R168, R198, R199, R227). -/
inductive Event where
  /-- `Event(func, address, bound values)`. -/
  | decoded (function address : Byte) (bound : Bound)
  /-- `process_calibration_data`, each group four float patterns (R198). -/
  | calibrationData (address : Byte)
      (mainADCK mainOffset mainSensitivity backupADCK backupOffset backupSensitivity : List (BitVec 32))
  /-- `process_mezzanine_pressure`, in the callback's order of arguments (R199). -/
  | mezzaninePressure (address : Byte) (primaryPush primaryPull secondaryPush secondaryPull : BitVec 32)
  /-- `ErrorEvent(handler, address, code)` (R169). -/
  | errorReply (handler : Nat) (address code : Byte)
  /-- A hook that is not the no-op was called (R168). -/
  | hook (id : Nat)
  deriving DecidableEq, Repr

/-- A typed value to write: one of the types of R111 to R116.  A signed integer or a float is given as its bit pattern, so an
operand outside its declared width cannot be written down (R220, case 4). -/
inductive Param where
  | u8 (v : BitVec 8)
  | s8 (v : BitVec 8)
  | u16 (v : BitVec 16)
  | s16 (v : BitVec 16)
  | u32 (v : BitVec 32)
  | s32 (v : BitVec 32)
  | u64 (v : BitVec 64)
  | s64 (v : BitVec 64)
  | f32 (bits : BitVec 32)
  | i24 (v : Int)
  deriving DecidableEq, Repr

/-- The read operations that look at exactly one instruction word (R126, R134 to R138, R141), and `decode_word` (R73); that it
may also be asked of the word at the cursor is the model's choice (DESIGN CHOICE, assumption log entry 27). -/
inductive WordOp where
  | readU8
  | readS8
  | peek
  | next
  | readDelay
  | readWaitForRx
  | readEndOfFrame
  | endOfFrame
  | classify
  deriving DecidableEq, Repr

/-- The request builders (R165, R166, R193, R195, R197 to R200). -/
inductive Request where
  | callFunction (address function : Byte) (timeoutUs : Micros) (params : List Param)
  | broadcastFunction (address function counter : Byte) (delayUs : Micros) (data : List Byte) (dataLen : Nat)
  | changeIlcMode (address mode : Byte)
  | serverId (address : Byte)
  | serverStatus (address : Byte)
  | setTempAddress (address temporaryAddress : Byte)
  | resetServer (address : Byte)
  | setOffsetAndSensitivity (address channel : Byte) (offset sensitivity : BitVec 32)
  | reportCalibrationData (address : Byte)
  | mezzaninePressure (address : Byte)
  | hardpointForceStatus (address : Byte)
  deriving DecidableEq, Repr

/-- What the host-side arbiter does next (R236). -/
inductive ArbAction where
  /-- The one action of IDLE, SEND, READ_COUNT, READ_WORDS, CHECK or FAULT, with the driver's timeout. -/
  | advance (timeout : Nat)
  /-- One request builder in COMPOSE. -/
  | build (r : Request)
  /-- COMPOSE is complete. -/
  | batchComplete
  /-- `write_request_fifo(...)` in REQUEST. -/
  | signal (args : List Word)
  /-- `process_response` in PROCESS, and whether more chunks are expected. -/
  | process (moreExpected : Bool)
  deriving DecidableEq, Repr

/-- The arbiter's states (R236), with what it carries from one to the next. -/
inductive ArbState where
  | idle
  | compose
  | send
  | request
  | readCount
  | readWords (n : Word)
  | process (words : List Word)
  | check
  | fault
  deriving DecidableEq, Repr

/-- One operation the host issues (R8, R85). -/
inductive HostOp where
  /-- A read that looks at the word at the cursor: the instruction word there is fetched, decoded and executed under it. -/
  | word (o : WordOp)
  /-- `decode_word(w)` of a word the host holds (R73). -/
  | decodeWord (w : Word)
  /-- One iteration of the dispatch loop, steps 3a to 3e, on the frame at the cursor: the frame's header is fetched, decoded
  and executed (R153; assumption log entry 2). -/
  | frame
  | endOfBuffer
  | readWide (k : WideKind)
  | readString (n : Nat)
  | checkCrc
  | write (p : Param)
  | writeCrc
  | writeDelay (us : Micros)
  | writeWaitForRx (us : Micros)
  | writeEndOfFrame
  | writeRxEndFrame
  | addResponse (e : Entry)
  | processResponse (words : List Word) (length : Nat)
  | pushCommanded (address function : Byte)
  | checkCommandedEmpty
  | request (r : Request)
  | recordChanges
  | pauseRecordChanges
  | checkRecording (cached : Option (List Byte))
  | nextBroadcastCounter
  | reset
  | clear (onlyBuffers : Bool)
  /-- The host takes a snapshot of the word buffer (R64). -/
  | snapshot
  | writeCommandFifo (words : List Word) (len timeout : Nat)
  /-- The arguments are OPEN (R234): a list of words and no timeout is the model's choice (DESIGN CHOICE, assumption log
  entry 29). -/
  | writeRequestFifo (args : List Word)
  | readU16ResponseFifo (len timeout : Nat)
  /-- The FPGA consumes words of the command FIFO (R8). -/
  | fpgaTake (n : Nat)
  /-- The FPGA supplies response words (R8). -/
  | fpgaSupply (words : List Word)
  | arbiter (a : ArbAction)
  deriving DecidableEq, Repr

end Sys2Proof.Machine
end

