-- ==== Sys2Proof/Machine/State.lean ====
section
/-! DEFINITION. The machine's state: every element of spec/10_state.md R20, the configuration record of R30, and the
model's own fields around the block (the host's pending operations and the last result and events, the arbiter of R236, the
driver's FIFOs of R233 to R235, the counter of the free values). -/

namespace Sys2Proof.Machine

open Sys2Proof

/-- A map of spec/00_scope.md R14 as plain data: entries with strictly rising keys; a key not listed is `absent`. -/
abbrev Table (β : Type) := List (Nat × β)

/-- The FPGA driver's side of R233 to R235, outside the block: the words and signals pushed, the words waiting, and the count
phase 1 of a response read has returned. -/
structure Driver where
  commandFifo  : List Word
  requests     : List (List Word)
  responseFifo : List Word
  counted      : Option Word
  deriving DecidableEq, Repr

/-- The state. -/
structure State where
  /-- The configuration record (R30), fixed at construction. -/
  cfg : Config
  /-- The CRC accumulator (R21). -/
  crc : Word
  /-- The word buffer, the block's one addressable memory (R23, R45). -/
  buf : List Word
  /-- The read cursor (R22). -/
  cur : Nat
  /-- The change-recording flag (R24). -/
  recording : Bool
  /-- The record buffer `rec` (R25). -/
  record : List Byte
  /-- The commanded queue, head first (R26). -/
  cq : List (Byte × Byte)
  /-- The cached fingerprints, keyed by `256 * address + function` (R27). -/
  cache : Table (List Byte)
  /-- The ILC mode table, keyed by address (R28). -/
  lastMode : Table Byte
  /-- The broadcast counter (R29). -/
  bcast : BitVec 4
  /-- A `process_response` has run, so the registry is read-only (R33). -/
  registrySealed : Bool
  /-- How many free values have been taken (the model's own). -/
  free : Nat
  /-- The driver's FIFOs (the model's own; R38). -/
  driver : Driver
  /-- The host-side arbiter (R236). -/
  arb : ArbState
  /-- The host's pending operations, oldest first (the model's own). -/
  ops : List HostOp
  /-- The result of the last operation (R9). -/
  result : Option Result
  /-- The events the last operation delivered, in order (R227). -/
  events : List Event
  deriving DecidableEq, Repr

/-- The reasons to stop with a fault: there is none.  An error of the block is a result and a next state (R222, R223), and no
rule of the spec names a fault of the machine. -/
inductive Fault where
  deriving DecidableEq, Repr

/-- The refusals: the model has no transition (R220). -/
inductive Refusal where
  /-- Raised by `exec` for an instruction without a meaning.  Safe. -/
  | notModelled (mnemonic : String)
  /-- Raised by `add_response` for an entry that makes the registry ill-formed (R150, R151, R220 case 1).  Safe. -/
  | illFormedRegistry
  /-- Raised by `add_response` after the first `process_response`, when the registry is read-only (R33).  Safe. -/
  | registryReadOnly
  /-- Raised by `process_response` when the length exceeds the words given (R153, R220 case 2).  Safe. -/
  | lengthExceedsWords
  /-- Raised by a decoder, or by `add_response` of one, whose step uses a name no earlier step binds: a step outside the
  grammar of R152 (R220 case 3).  Safe. -/
  | decoderOutsideGrammar
  /-- Raised by `write_command_fifo` when a word to send is reserved: the send side of R74, which spec/93 row 10 rules
  `refuse`.  Safe. -/
  | reservedWord
  /-- Raised by the arbiter when the action is not one its state has (R236).  Safe. -/
  | arbiterNoTransition
  deriving DecidableEq, Repr

/-- A newly constructed block with a configuration (R240). -/
def State.powerOn (c : Config) : State where
  cfg := c
  crc := 0xFFFF
  buf := []
  cur := 0
  recording := false
  record := []
  cq := []
  cache := []
  lastMode := []
  bcast := 0
  registrySealed := false
  free := 0
  driver := ⟨[], [], [], none⟩
  arb := .idle
  ops := []
  result := none
  events := []

/-- The machine after reset: the power-on state of the hardware in scope (R240, R190, R31). -/
def State.reset : State := State.powerOn Config.ilc

end Sys2Proof.Machine
end

