-- ==== Sys2Proof/Machine/Ops.lean ====
section
/-! DEFINITION. The named operations over the state: field updates, the word buffer (spec/20_memory.md R45 to R48), the maps
of spec/00_scope.md R14, the three ways an operation ends (R9, R15, R220), and raising an error, this block's one form of
exception (spec/60_exceptions.md R210, R222, R223). -/

namespace Sys2Proof.Machine

open Sys2Proof

/-! ## Field updates -/

def State.setCfg (v : Config) (s : State) : State := { s with cfg := v }
def State.setCrc (v : Word) (s : State) : State := { s with crc := v }
def State.setBuf (v : List Word) (s : State) : State := { s with buf := v }
def State.setCur (v : Nat) (s : State) : State := { s with cur := v }
def State.setRecording (v : Bool) (s : State) : State := { s with recording := v }
def State.setRecord (v : List Byte) (s : State) : State := { s with record := v }
def State.setCq (v : List (Byte × Byte)) (s : State) : State := { s with cq := v }
def State.setCache (v : Table (List Byte)) (s : State) : State := { s with cache := v }
def State.setLastMode (v : Table Byte) (s : State) : State := { s with lastMode := v }
def State.setBcast (v : BitVec 4) (s : State) : State := { s with bcast := v }
def State.setRegistrySealed (v : Bool) (s : State) : State := { s with registrySealed := v }
def State.setFree (v : Nat) (s : State) : State := { s with free := v }
def State.setDriver (v : Driver) (s : State) : State := { s with driver := v }
def State.setArb (v : ArbState) (s : State) : State := { s with arb := v }
def State.setOps (v : List HostOp) (s : State) : State := { s with ops := v }
def State.setResult (v : Option Result) (s : State) : State := { s with result := v }
def State.setEvents (v : List Event) (s : State) : State := { s with events := v }

/-! ## How an operation ends -/

/-- An operation's end (R9, R15): `Ok(v)` or `Err(kind, info)`, each with the state it leaves, or a refusal, which leaves
none (R220). -/
inductive Ran (α : Type) where
  | ok (v : α) (s : State)
  | err (e : Err) (s : State)
  | stop (r : Refusal)
  deriving DecidableEq, Repr

/-- `call Op(args)` and go on: if the operation raises, the caller raises the same error at once (R15, R222). -/
def Ran.andThen {α β : Type} (r : Ran α) (k : α → State → Ran β) : Ran β :=
  match r with
  | .ok v s => k v s
  | .err e s => .err e s
  | .stop x => .stop x

/-- The same end with another value. -/
def Ran.map {α β : Type} (r : Ran α) (f : α → β) : Ran β :=
  match r with
  | .ok v s => .ok (f v) s
  | .err e s => .err e s
  | .stop x => .stop x

/-- TAKING AN EXCEPTION on this block: `raise Kind(info)` ends the operation with the error; every write before it stands
and none after it happens (R15, R223).  There is no saved register, no vector and no return: the error reaches the host
(R222), and `clear(only_buffers=false)` is the recovery (R225). -/
def raise {α : Type} (e : Err) (s : State) : Ran α := .err e s

/-- Refuse: the model has no transition (R220). -/
def refuse {α : Type} (r : Refusal) : Ran α := .stop r

/-- The numeric codes of the error kinds (R210). -/
def Err.code : Err → Nat
  | .endOfBuffer _ => 1
  | .crcError _ _ => 2
  | .unknownResponse _ _ => 3
  | .exception _ _ _ => 4
  | .unmatchedFunction _ _ _ => 5
  | .framingError _ _ => 6
  | .commandedNonEmpty _ => 7
  | .bufferFull _ => 8
  | .queueFull _ _ => 9

/-- The text form of a list of outstanding pairs, `address:function` comma-separated (R164, R217). -/
def commandedText (pairs : List (Byte × Byte)) : String :=
  ",".intercalate (pairs.map (fun p => toString p.1.toNat ++ ":" ++ toString p.2.toNat))

/-- A new operation begins: the results of the last one are gone from the output. -/
def State.begin (s : State) : State := { s with result := none, events := [] }

/-- The operation at the head of the host's list is done, with its result. -/
def State.complete (r : Result) (s : State) : State := { s with result := some r, ops := s.ops.tail }

/-- An operation's end as a step of the machine: `Ok` and `Err` are next states, since the block takes any operation after an
error (R223). -/
def finish (r : Ran Value) : Host.Outcome State Fault Refusal :=
  match r with
  | .ok v s => .next (s.complete (.ok v))
  | .err e s => .next (s.complete (.err e))
  | .stop r => .refused r

/-- The value of an operation that returns none (R9). -/
def Ran.noValue (r : Ran Unit) : Ran Value := r.map (fun _ => Value.none)

/-! ## The word buffer, the block's memory (R45 to R48) -/

/-- The block's memory: the words at indexes `0 .. length - 1`; no other index exists (R45). -/
abbrev Memory := List Word

/-- `MemRead(i, 1)`: the word at index `i`, none past the end (R15, R45). -/
def Memory.read (m : Memory) (i : Nat) : Option Word := m[i]?

/-- `MemWrite(i, 1, w)`: none past the end (R15, R45).  No operation of the block uses it. -/
def Memory.write (m : Memory) (i : Nat) (w : Word) : Option Memory :=
  if i < m.length then some (m.set i w) else none

/-- The canonical form: the list itself, within the capacity `BUF_WORDS` (R46). -/
def Memory.wf (capacity : Option Nat) (m : Memory) : Bool :=
  match capacity with
  | none => true
  | some n => m.length ≤ n

/-- `Emit(w)` (R47). -/
def emit (w : Word) (s : State) : Ran Unit :=
  if s.cfg.bufWords = some s.buf.length then raise (.bufferFull s.buf.length) s
  else .ok () (s.setBuf (s.buf ++ [w]))

/-- `Seat(words)` (R48, R154): it touches `buf`, `cur` and `crc` only. -/
def seat (ws : List Word) (s : State) : Ran Unit :=
  if Memory.wf s.cfg.bufWords ws then .ok () (((s.setBuf ws).setCur 0).setCrc 0xFFFF)
  else raise (.bufferFull ws.length) s

/-- The word at the cursor, none at the end of the buffer (R22). -/
def State.fetch (s : State) : Option Word := Memory.read s.buf s.cur

/-- The cursor moves over one word (R22). -/
def State.advance (s : State) : State := s.setCur (s.cur + 1)

/-- Words placed at the cursor from outside, over whatever stands there. -/
def State.placeAtCursor (s : State) (ws : List Word) : State :=
  { s with buf := s.buf.take s.cur ++ ws ++ s.buf.drop (s.cur + ws.length), cur := min s.cur s.buf.length }

/-! ## Maps (R14) -/

/-- `m[k]`, none for `absent`. -/
def Table.get {β : Type} : Table β → Nat → Option β
  | [], _ => none
  | (k, v) :: rest, q => if k = q then some v else Table.get rest q

/-- `m[k] <- v`, keeping the keys rising. -/
def Table.set {β : Type} : Table β → Nat → β → Table β
  | [], q, x => [(q, x)]
  | (k, v) :: rest, q, x =>
    if q < k then (q, x) :: (k, v) :: rest
    else if q = k then (q, x) :: rest
    else (k, v) :: Table.set rest q x

/-- The canonical form: the keys rise strictly, so that equal maps are equal lists. -/
def Table.wf {β : Type} (m : Table β) : Bool := decide (List.Pairwise (fun a b => a.1 < b.1) m)

/-- The key of `cache[(address, function)]` (R27). -/
def cacheKey (address function : Byte) : Nat := 256 * address.toNat + function.toNat

/-- `cache[(address, function)]` (R27). -/
def State.cached (s : State) (address function : Byte) : Option (List Byte) :=
  Table.get s.cache (cacheKey address function)

/-- `cache[(address, function)] <- fingerprint` (R184). -/
def State.setCached (address function : Byte) (fingerprint : List Byte) (s : State) : State :=
  s.setCache (Table.set s.cache (cacheKey address function) fingerprint)

/-- `last_mode[address]` (R28). -/
def State.modeOf (s : State) (address : Byte) : Option Byte := Table.get s.lastMode address.toNat

/-- `last_mode[address] <- mode` (R192). -/
def State.setModeOf (address mode : Byte) (s : State) : State :=
  s.setLastMode (Table.set s.lastMode address.toNat mode)

/-- `n` free values have been taken. -/
def State.takeFree (n : Nat) (s : State) : State := s.setFree (s.free + n)

/-- The words `words[0], …, words[len - 1]`; one past the end of the list is a free word. -/
def firstWords (words : List Word) (len free : Nat) : List Word :=
  words.take len ++ (List.range (len - words.length)).map fun i => Config.freeWord (free + i)

/-- Deliver an event to the host (R152, R227). -/
def State.deliver (e : Event) (s : State) : State := s.setEvents (s.events ++ [e])

/-- The read operation at the head of the host's list, if it looks at one instruction word. -/
def HostOp.wordOp : HostOp → Option WordOp
  | .word o => some o
  | .decodeWord _ => some .classify
  | _ => none

/-- The read operation the next instruction word is executed under. -/
def State.wordOp (s : State) : Option WordOp := s.ops.head?.bind HostOp.wordOp

end Sys2Proof.Machine
end

