-- ==== Sys2Proof/Machine/Flags.lean ====
section
/-! DEFINITION. The status state of the block (spec/00_scope.md R16): the CRC unit (spec/41_crc.md), the recorder's tap
(spec/45_change_recorder.md R182) and the two status values that are functions of state (spec/10_state.md R35). -/

namespace Sys2Proof.Machine

open Sys2Proof

/-! ## The CRC unit -/

/-- One of the eight iterations of R106: shift right, and XOR with 0xA001 if the bit shifted out was set. -/
def crcShift (c : Word) : Word := if c.getLsbD 0 then (c >>> 1) ^^^ 0xA001 else c >>> 1

/-- `n` iterations. -/
def crcShifts : Nat → Word → Word
  | 0, c => c
  | n + 1, c => crcShifts n (crcShift c)

/-- The accumulator after `CrcAdd(b)` (R106). -/
def crcByte (c : Word) (b : Byte) : Word := crcShifts 8 (c ^^^ b.setWidth 16)

/-- The accumulator after the bytes, in wire order (R108). -/
def crcBytes (c : Word) (bs : List Byte) : Word := bs.foldl crcByte c

/-- `CrcReset()` (R105). -/
def State.crcReset (s : State) : State := s.setCrc 0xFFFF

/-- `CrcAdd(b)` (R106). -/
def State.crcAdd (b : Byte) (s : State) : State := s.setCrc (crcByte s.crc b)

/-- `CrcValue()` (R107): the accumulator as it stands, no final XOR and no byte swap. -/
def State.crcValue (s : State) : Word := s.crc

/-- `crc[7:0]`, transmitted first (R50). -/
def crcLow (c : Word) : Byte := c.extractLsb' 0 8

/-- `crc[15:8]` (R50). -/
def crcHigh (c : Word) : Byte := c.extractLsb' 8 8

/-- `lo | (hi << 8)` (R50). -/
def crcOfBytes (lo hi : Byte) : Word := hi ++ lo

/-! ## The recorder's tap -/

/-- The tap (R182): while recording, a tapped byte is appended to the record. -/
def State.tap (tapped : Bool) (b : Byte) (s : State) : State :=
  if s.recording && tapped then s.setRecord (s.record ++ [b]) else s

/-! ## Status values -/

/-- `end_of_buffer` (R35, R140). -/
def State.endOfBuffer (s : State) : Bool := s.buf.length ≤ s.cur

/-- `end_of_frame` (R35, R141). -/
def State.endOfFrame (s : State) : Bool := s.fetch = some s.cfg.rxEndframe

end Sys2Proof.Machine
end

