-- ==== Sys2Proof/Machine/Operands.lean ====
section
/-! DEFINITION. Operand forms: byte lists of typed values in both byte orders (spec/20_memory.md R49 to R54), the values of
the read kinds (spec/43_rx_read.md), and the time words of the write path (spec/42_tx_write.md R118 to R120). -/

namespace Sys2Proof.Machine

open Sys2Proof

/-! ## Byte order -/

/-- `bytes_be(v, n)` (R14, R49). -/
def bytesBE (v : Nat) : Nat → List Byte
  | 0 => []
  | n + 1 => BitVec.ofNat 8 (v >>> (8 * n)) :: bytesBE v n

/-- The number a big-endian byte list stands for: `v <- (v << 8) | b` over the list (R127 to R131). -/
def natBE (bs : List Byte) : Nat := bs.foldl (fun v b => v * 256 + b.toNat) 0

/-- The number a little-endian byte list stands for (R133). -/
def natLE : List Byte → Nat
  | [] => 0
  | b :: rest => b.toNat + 256 * natLE rest

/-! ## Typed values -/

/-- The payload bytes of a typed value (R111 to R116): big-endian, a signed value as its two's complement pattern, a float as
its bit pattern, an i24 as its low 24 bits. -/
def Param.bytes : Param → List Byte
  | .u8 v => bytesBE v.toNat 1
  | .s8 v => bytesBE v.toNat 1
  | .u16 v => bytesBE v.toNat 2
  | .s16 v => bytesBE v.toNat 2
  | .u32 v => bytesBE v.toNat 4
  | .s32 v => bytesBE v.toNat 4
  | .u64 v => bytesBE v.toNat 8
  | .s64 v => bytesBE v.toNat 8
  | .f32 bits => bytesBE bits.toNat 4
  | .i24 v => bytesBE (BitVec.ofInt 24 v).toNat 3

/-- The number of bytes a wide read consumes (R127 to R131, R133). -/
def wideLength : WideKind → Nat
  | .u16 => 2
  | .s16 => 2
  | .u32 => 4
  | .s32 => 4
  | .u64 => 8
  | .s64 => 8
  | .f32 => 4
  | .u48 => 6
  | .timestamp => 8

/-- The value of the bytes a wide read consumed (R127 to R131, R133): big-endian but for the timestamp; a signed kind is the
same bits as two's complement. -/
def wideValue (k : WideKind) (bs : List Byte) : Value :=
  match k with
  | .u16 => .uint (natBE bs)
  | .s16 => .sint (BitVec.ofNat 16 (natBE bs)).toInt
  | .u32 => .uint (natBE bs)
  | .s32 => .sint (BitVec.ofNat 32 (natBE bs)).toInt
  | .u64 => .uint (natBE bs)
  | .s64 => .sint (BitVec.ofNat 64 (natBE bs)).toInt
  | .f32 => .f32 (BitVec.ofNat 32 (natBE bs))
  | .u48 => .uint (natBE bs)
  | .timestamp => .uint (natLE bs)

/-- The number a bound value is, for `SET_MODE` and `string(v - k)` (R152, R192); a float is its 32-bit pattern (decision
D38). -/
def Value.int? : Value → Option Int
  | .uint v => some v
  | .sint v => some v
  | .f32 bits => some bits.toNat
  | _ => Option.none

/-- The value a name is bound to (R152).  Of a name that a decoder binds twice the last binding counts, which is the model's
choice (DESIGN CHOICE, assumption log entry 28). -/
def Bound.get (bound : Bound) (n : FieldName) : Option Value :=
  (bound.reverse.find? (fun p => p.1 = n)).map Prod.snd

/-- The mode argument of a function-65 request, `MODE_REQ_WIDTH` bits wide (R195). -/
def modeParam (w : ModeWidth) (mode : Byte) : Param :=
  match w with
  | .bits8 => .u8 mode
  | .bits16 => .u16 (mode.setWidth 16)

/-! ## Time words -/

/-- `LongMs(us)` (R120): milliseconds, rounded up with one added and clamped to the 12 bits. -/
def longMs (r : Rounding) (us : Nat) : Nat :=
  match r with
  | .ceilPlusOne => min 0xFFF ((us + 999) / 1000 + 1)
  | .truncPlusOne => min 0xFFF (us / 1000 + 1)

/-- The word for a time: the short command with microseconds up to 0xFFF, else the long command with milliseconds
(R118, R119). -/
def timeWord (r : Rounding) (short long : Nibble) (us : Micros) : Word :=
  if us.toNat ≤ 0xFFF then mkWord short (BitVec.ofNat 12 us.toNat)
  else mkWord long (BitVec.ofNat 12 (longMs r us.toNat))

/-- The microseconds a time word holds, if its nibble is one of the two commands (R75, R136, R137). -/
def timeOf (short long : Nibble) (w : Word) : Option Nat :=
  if nibble w = short then some (payload w).toNat
  else if nibble w = long then some ((payload w).toNat * 1000)
  else none

end Sys2Proof.Machine
end

