-- ==== Sys2Proof/Machine/Recorder.lean ====
section
/-! DEFINITION. The change recorder (spec/45_change_recorder.md). -/

namespace Sys2Proof.Machine

open Sys2Proof

/-- `record_changes()` (R180). -/
def recordChanges (s : State) : State := (s.setRecord []).setRecording true

/-- `pause_record_changes()` (R181): the record is kept. -/
def pauseRecordChanges (s : State) : State := s.setRecording false

/-- `check_recording(cached)` (R183): whether the caller's fingerprint is the record, and the fingerprint the caller then
holds; an absent one never matches. -/
def checkRecording (cached : Option (List Byte)) (s : State) : Bool × List Byte :=
  (cached = some s.record, s.record)

/-- `response_match_cached(address, func)` (R184): the record is stored whether or not it matched. -/
def responseMatchCached (address function : Byte) (s : State) : Bool × State :=
  let r := checkRecording (s.cached address function) s
  (r.1, s.setCached address function r.2)

end Sys2Proof.Machine
end

