-- ==== Sys2Proof/Machine/Read.lean ====
section
/-! DEFINITION. The read path (spec/43_rx_read.md): byte reads feed the CRC and the recorder's tap, control-word reads feed
neither (R58).  There is no 24-bit read (R142). -/

namespace Sys2Proof.Machine

open Sys2Proof

/-! ## Byte reads -/

/-- What `ReadByte(tap)` does with the word it consumes (R125): any word yields a byte. -/
def takeByte (tapped : Bool) (w : Word) (s : State) : Byte × State :=
  let b := s.cfg.decByte w
  (b, (s.advance.crcAdd b).tap tapped b)

/-- `ReadByte(tap)` (R125). -/
def readByte (tapped : Bool) (s : State) : Ran Byte :=
  match s.fetch with
  | none => raise (.endOfBuffer s.cur) s
  | some w => .ok (takeByte tapped w s).1 (takeByte tapped w s).2

/-- `ReadByteNoCrc()` (R125), used by `check_crc` only. -/
def readByteNoCrc (s : State) : Ran Byte :=
  match s.fetch with
  | none => raise (.endOfBuffer s.cur) s
  | some w => .ok (s.cfg.decByte w) s.advance

/-- `ReadByte(true)` `n` times (R127 to R133): the bytes read before an error stay consumed (R143). -/
def readBytes : Nat → State → Ran (List Byte)
  | 0, s => .ok [] s
  | n + 1, s =>
    (readByte true s).andThen fun b s =>
    (readBytes n s).map (b :: ·)

/-- A scalar read of more than one byte (R127 to R131, R133). -/
def readWide (k : WideKind) (s : State) : Ran Value := (readBytes (wideLength k) s).map (wideValue k)

/-- Any scalar read of the decoder grammar (R126 to R131, R133). -/
def readScalar (k : ReadKind) (s : State) : Ran Value :=
  match k with
  | .u8 => (readByte true s).map fun b => .uint b.toNat
  | .s8 => (readByte true s).map fun b => .sint b.toInt
  | .wide k => readWide k s

/-- `read_string(n)` (R132). -/
def readString (n : Nat) (s : State) : Ran Value := (readBytes n s).map Value.bytes

/-- `check_crc()` (R139): the snapshot is taken and recording ends before the two bytes are read; neither byte reaches the
CRC or the record; the reset happens on success only. -/
def checkCrc (s : State) : Ran Unit :=
  let calculated := s.crcValue
  (readByteNoCrc (s.setRecording false)).andThen fun lo s₁ =>
  (readByteNoCrc s₁).andThen fun hi s₂ =>
  if crcOfBytes lo hi = calculated then .ok () s₂.crcReset
  else raise (.crcError calculated (crcOfBytes lo hi)) s₂

/-! ## One instruction word under a read operation -/

/-- `read_delay()` and `read_wait_for_rx()` (R136, R137) on the word they meet: the cursor stays at a word of another kind. -/
def takeTime (short long : Nibble) (w : Word) (s : State) : Ran Value :=
  match timeOf short long w with
  | some us => .ok (.uint us) s.advance
  | none => raise (.framingError w s.cur) s

/-- `read_end_of_frame()` (R138) on the word it meets. -/
def takeEndOfFrame (w : Word) (s : State) : Ran Value :=
  if w = s.cfg.txFrameend then .ok .none s.advance.crcReset
  else raise (.framingError w s.cur) s

/-- What each one-word read operation does with the word `w` at the cursor, of class `k` (R126, R134 to R138, R141, R73). -/
def applyWordOp (o : WordOp) (k : WordClass) (w : Word) (s : State) : Ran Value :=
  match o with
  | .readU8 => .ok (.uint (takeByte true w s).1.toNat) (takeByte true w s).2
  | .readS8 => .ok (.sint (takeByte true w s).1.toInt) (takeByte true w s).2
  | .peek => .ok (.word w) s
  | .next => .ok .none s.advance
  | .readDelay => takeTime 0x4 0x5 w s
  | .readWaitForRx => takeTime s.cfg.waitShortCmd s.cfg.waitLongCmd w s
  | .readEndOfFrame => takeEndOfFrame w s
  | .endOfFrame => .ok (.bool (w = s.cfg.rxEndframe)) s
  | .classify => .ok (.wordClass k) s

/-- The same operations at the end of the buffer (R125, R134 to R138, R141): `end_of_frame` is false, the others raise.
`decode_word` as a read of the word at the cursor is the model's own, and so is its error there: R73's takes a word of the
host and has no error (DESIGN CHOICE, assumption log entry 27). -/
def wordOpAtEnd (o : WordOp) (s : State) : Ran Value :=
  match o with
  | .readU8 => raise (.endOfBuffer s.cur) s
  | .readS8 => raise (.endOfBuffer s.cur) s
  | .peek => raise (.endOfBuffer s.cur) s
  | .next => raise (.endOfBuffer s.cur) s
  | .readDelay => raise (.endOfBuffer s.cur) s
  | .readWaitForRx => raise (.endOfBuffer s.cur) s
  | .readEndOfFrame => raise (.endOfBuffer s.cur) s
  | .endOfFrame => .ok (.bool false) s
  | .classify => raise (.endOfBuffer s.cur) s

/-- The instruction word `w` of class `k`, executed: the read operation the host has issued consumes or inspects it.  The
block does not act on a word by itself (spec/40_instruction_words.md, opening), so with no such operation nothing changes. -/
def executeWord (k : WordClass) (w : Word) (s : State) : Host.Outcome State Fault Refusal :=
  match s.wordOp with
  | some o => finish (applyWordOp o k w s)
  | none => .next s

end Sys2Proof.Machine
end

