-- ==== Sys2Proof/Machine/Frames.lean ====
section
/-! DEFINITION. The request-response arbiter's dispatch (spec/44_dispatch.md): the registry, the decoder steps, the pairing
check of the commanded queue, one iteration of the dispatch loop and `process_response`; and the meanings of the function
codes of the opcode table (spec/46_ilc_layer.md R193, R197 to R201). -/

namespace Sys2Proof.Machine

open Sys2Proof

/-! ## The registry -/

/-- `add_response(func, decoder, error_func, error_handler?)` (R151): the configuration only. -/
def addResponse (e : Entry) (s : State) : Ran Unit :=
  if s.registrySealed then refuse .registryReadOnly
  else if !registryWf (s.cfg.registry ++ [e]) then refuse .illFormedRegistry
  else if !decoderNamesOk [] e.decoder then refuse .decoderOutsideGrammar
  else .ok () (s.setCfg { s.cfg with registry := s.cfg.registry ++ [e] })

/-! ## Events -/

/-- The float pattern a name is bound to. -/
def boundF32 (bound : Bound) (n : FieldName) : Option (BitVec 32) :=
  match Bound.get bound n with
  | some (.f32 v) => some v
  | _ => none

/-- The four floats of a calibration group. -/
def boundGroup (bound : Bound) (g : CalGroup) : Option (List (BitVec 32)) :=
  match boundF32 bound (.cal g 0), boundF32 bound (.cal g 1), boundF32 bound (.cal g 2), boundF32 bound (.cal g 3) with
  | some a, some b, some c, some d => some [a, b, c, d]
  | _, _, _, _ => none

/-- The event of function 110 (R198), when every float is bound. -/
def calibrationEvent (address : Byte) (bound : Bound) : Option Event :=
  match boundGroup bound .mainADCK, boundGroup bound .mainOffset, boundGroup bound .mainSensitivity,
      boundGroup bound .backupADCK, boundGroup bound .backupOffset, boundGroup bound .backupSensitivity with
  | some a, some b, some c, some d, some e, some f => some (.calibrationData address a b c d e f)
  | _, _, _, _, _, _ => none

/-- The event of function 119 (R199): the callback takes push1, pull1, push2, pull2 where the wire has push1, pull1, pull2,
push2. -/
def mezzanineEvent (address : Byte) (bound : Bound) : Option Event :=
  match boundF32 bound .primaryPush, boundF32 bound .primaryPull, boundF32 bound .secondaryPush,
      boundF32 bound .secondaryPull with
  | some a, some b, some c, some d => some (.mezzaninePressure address a b c d)
  | _, _, _, _ => none

/-- The event a decoder of function `f` delivers (R152, R198, R199). -/
def eventOf (function address : Byte) (bound : Bound) : Event :=
  if function = 110 then (calibrationEvent address bound).getD (.decoded function address bound)
  else if function = 119 then (mezzanineEvent address bound).getD (.decoded function address bound)
  else .decoded function address bound

/-! ## Decoder steps -/

/-- The number a name is bound to, for a step that uses it (R152).  A string is no number, and then the number is a free value
(assumption log entry 28); a name that is not bound makes a step outside the grammar (R220). -/
def boundNumber (bound : Bound) (n : FieldName) (s : State) : Ran Int :=
  match Bound.get bound n with
  | none => refuse .decoderOutsideGrammar
  | some v =>
    match v.int? with
    | some x => .ok x s
    | none => .ok (Config.freeNumber s.free) (s.takeFree 1)

/-- The number of bytes of a `string(n)` read (R152). -/
def stringLength (n : StringLength) (bound : Bound) (s : State) : Ran Int :=
  match n with
  | .const k => .ok k s
  | .minus v k => (boundNumber bound v s).map fun x => x - k

/-- One decoder step for a reply of `function` from `address` (R152).  A negative string length raises before any word is
consumed. -/
def decoderStep (function address : Byte) (d : DecoderStep) (bound : Bound) (s : State) : Ran Bound :=
  match d with
  | .read k n => (readScalar k s).map fun v => bound ++ [(n, v)]
  | .readString len n =>
    (stringLength len bound s).andThen fun x s =>
    if x < 0 then raise (.endOfBuffer s.cur) s
    else (readString x.toNat s).map fun v => bound ++ [(n, v)]
  | .recordChanges => .ok bound (recordChanges s)
  | .pauseRecord => .ok bound (pauseRecordChanges s)
  | .checkCrc => (checkCrc s).map fun _ => bound
  | .setMode n =>
    (boundNumber bound n s).andThen fun x s => .ok bound (s.setModeOf address (BitVec.ofInt 8 x))
  | .emit => .ok bound (s.deliver (eventOf function address bound))
  | .emitIfChanged =>
    let r := responseMatchCached address function s
    match r.1 && !s.cfg.alwaysTrigger.contains function with
    | true => .ok bound r.2
    | false => .ok bound (r.2.deliver (eventOf function address bound))

/-- The steps of a decoder in order; an error of a step ends it (R152). -/
def runDecoder (function address : Byte) : List DecoderStep → Bound → State → Ran Unit
  | [], _, s => .ok () s
  | d :: rest, bound, s =>
    (decoderStep function address d bound s).andThen fun bound s => runDecoder function address rest bound s

/-! ## The dispatch loop -/

/-- Step 3b, the function the queue's head must name (R156). -/
def expectedFunction (c : Config) (function : Byte) : Byte :=
  match c.errorEntry function with
  | some e => e.normal
  | none => function

/-- `QueueCheck(address, func, expected)` (R157): the head is popped before it is compared. -/
def queueCheck (address function expected : Byte) (s : State) : Ran Unit :=
  match s.cq with
  | [] => raise (.unmatchedFunction address function none) s
  | (ea, ef) :: rest =>
    if ea = address ∧ ef = expected then .ok () (s.setCq rest)
    else raise (.unmatchedFunction address function (some (ea, ef))) (s.setCq rest)

/-- Step 3d, an error reply (R159): the exception byte, the CRC, then the handler's event or the standard exception. -/
def errorReply (e : Entry) (address function : Byte) (s : State) : Ran Unit :=
  (readByte true s).andThen fun code s =>
  (checkCrc s).andThen fun _ s =>
  match e.handler with
  | some h => .ok () (s.deliver (.errorReply h address code))
  | none => raise (.exception address function code) s

/-- The state `UnknownResponse` leaves (R224): the cursor is any value an index can have, a free value. -/
def State.loseCursor (s : State) : State :=
  (s.setCur (min (Config.freeCursor s.free) s.buf.length)).takeFree 1

/-- Steps 3c to 3e (R158 to R160). -/
def decodeReply (address function : Byte) (s : State) : Ran Unit :=
  match s.cfg.normalEntry function with
  | some e => runDecoder function address e.decoder [] s
  | none =>
    match s.cfg.errorEntry function with
    | some e => errorReply e address function s
    | none => raise (.unknownResponse address function) s.loseCursor

/-- Steps 3b to 3e for a frame whose header has been read (R156 to R160). -/
def frameBody (address function : Byte) (s : State) : Ran Unit :=
  (queueCheck address function (expectedFunction s.cfg function) s).andThen fun _ s =>
  decodeReply address function s

/-- Step 3a, the header: address and function, neither recorded (R155). -/
def readHeader (s : State) : Ran (Byte × Byte) :=
  (readByte false s).andThen fun a s => (readByte false s).map fun f => (a, f)

/-- The start of one iteration of step 3: nothing at the end of the buffer, a delimiter stepped over under `SKIP` (R161),
else the header. -/
def frameHead (s : State) : Ran (Option (Byte × Byte)) :=
  if s.endOfBuffer then .ok none s
  else if s.cfg.rxDelimiterPolicy = .skip ∧ s.endOfFrame = true then .ok none s.advance
  else (readHeader s).map some

/-- One iteration of step 3 (R153). -/
def frameIteration (s : State) : Ran Unit :=
  (frameHead s).andThen fun h s =>
  match h with
  | none => .ok () s
  | some (a, f) => frameBody a f s

/-- Step 3, `while not end_of_buffer()` (R153, R161).  Every iteration consumes a word, so as many iterations as there are
words left are enough. -/
def dispatchLoop : Nat → State → Ran Unit
  | 0, s => .ok () s
  | n + 1, s =>
    if s.endOfBuffer then .ok () s
    else (frameIteration s).andThen fun _ s => dispatchLoop n s

/-- The whole of step 3 from a state. -/
def dispatchAll (s : State) : Ran Unit := dispatchLoop (s.buf.length - s.cur) s

/-- A hook (R168): the default is the no-op; another is external, and the host sees it called. -/
def runHook (hook : Option Nat) (s : State) : State :=
  match hook with
  | none => s
  | some id => s.deliver (.hook id)

/-- `process_response(words, length)` (R153): after the first one the registry is read-only (R33). -/
def processResponse (words : List Word) (length : Nat) (s : State) : Ran Unit :=
  if words.length < length then refuse .lengthExceedsWords
  else
    (seat (words.take length) (runHook s.cfg.preProcess (s.setRegistrySealed true))).andThen fun _ s =>
    (dispatchAll s).andThen fun _ s =>
    .ok () (runHook s.cfg.postProcess s)

/-! ## The commanded queue -/

/-- `push_commanded(address, func)` (R163). -/
def pushCommanded (address function : Byte) (s : State) : Ran Unit :=
  if s.cfg.broadcastSet.contains address then .ok () s
  else if s.cfg.qDepth = some s.cq.length then raise (.queueFull address function) s
  else .ok () (s.setCq (s.cq ++ [(address, function)]))

/-- `check_commanded_empty()` (R164): it does not empty the queue. -/
def checkCommandedEmpty (s : State) : Ran Unit :=
  if s.cq = [] then .ok () s else raise (.commandedNonEmpty s.cq) s

/-! ## The function codes of the opcode table

A frame whose header has been read, executed: the pairing check, then what the registry says of the function byte (R79). -/

/-- Server-ID, function 17 (R193). -/
def execServerId (address : Byte) (s : State) : Host.Outcome State Fault Refusal := finish (frameBody address 17 s).noValue

/-- The error code of function 17 (R193). -/
def execServerIdError (address : Byte) (s : State) : Host.Outcome State Fault Refusal :=
  finish (frameBody address 145 s).noValue

/-- Server-Status, function 18 (R193). -/
def execServerStatus (address : Byte) (s : State) : Host.Outcome State Fault Refusal :=
  finish (frameBody address 18 s).noValue

/-- The error code of function 18 (R193). -/
def execServerStatusError (address : Byte) (s : State) : Host.Outcome State Fault Refusal :=
  finish (frameBody address 146 s).noValue

/-- Change-Mode, function 65 (R193). -/
def execChangeMode (address : Byte) (s : State) : Host.Outcome State Fault Refusal :=
  finish (frameBody address 65 s).noValue

/-- The error code of function 65 (R193). -/
def execChangeModeError (address : Byte) (s : State) : Host.Outcome State Fault Refusal :=
  finish (frameBody address 193 s).noValue

/-- Set-Temp-Address, function 72 (R193). -/
def execSetTempAddress (address : Byte) (s : State) : Host.Outcome State Fault Refusal :=
  finish (frameBody address 72 s).noValue

/-- The error code of function 72 (R193). -/
def execSetTempAddressError (address : Byte) (s : State) : Host.Outcome State Fault Refusal :=
  finish (frameBody address 200 s).noValue

/-- Reset-Server, function 107 (R193). -/
def execResetServer (address : Byte) (s : State) : Host.Outcome State Fault Refusal :=
  finish (frameBody address 107 s).noValue

/-- The error code of function 107 (R193). -/
def execResetServerError (address : Byte) (s : State) : Host.Outcome State Fault Refusal :=
  finish (frameBody address 235 s).noValue

/-- Hardpoint force and status, function 67 (R200). -/
def execHardpointForceStatus (address : Byte) (s : State) : Host.Outcome State Fault Refusal :=
  finish (frameBody address 67 s).noValue

/-- The default error code of function 67 (R201). -/
def execHardpointForceStatusError (address : Byte) (s : State) : Host.Outcome State Fault Refusal :=
  finish (frameBody address 195 s).noValue

/-- ADC offset and sensitivity, function 81 (R197). -/
def execSetOffsetAndSensitivity (address : Byte) (s : State) : Host.Outcome State Fault Refusal :=
  finish (frameBody address 81 s).noValue

/-- The default error code of function 81 (R201). -/
def execSetOffsetAndSensitivityError (address : Byte) (s : State) : Host.Outcome State Fault Refusal :=
  finish (frameBody address 209 s).noValue

/-- Report calibration data, function 110 (R198). -/
def execReportCalibrationData (address : Byte) (s : State) : Host.Outcome State Fault Refusal :=
  finish (frameBody address 110 s).noValue

/-- The default error code of function 110 (R201). -/
def execReportCalibrationDataError (address : Byte) (s : State) : Host.Outcome State Fault Refusal :=
  finish (frameBody address 238 s).noValue

/-- Mezzanine pressure, function 119 (R199). -/
def execMezzaninePressure (address : Byte) (s : State) : Host.Outcome State Fault Refusal :=
  finish (frameBody address 119 s).noValue

/-- The default error code of function 119 (R201). -/
def execMezzaninePressureError (address : Byte) (s : State) : Host.Outcome State Fault Refusal :=
  finish (frameBody address 247 s).noValue

end Sys2Proof.Machine
end

