-- ==== Sys2Proof/Machine/Write.lean ====
section
/-! DEFINITION. The write path (spec/42_tx_write.md): every write appends at the end of the buffer and none moves the
cursor (R123). -/

namespace Sys2Proof.Machine

open Sys2Proof

/-- `WriteByte(b)` (R110): the CRC takes the byte first, then its word is emitted. -/
def writeByte (b : Byte) (s : State) : Ran Unit := emit (s.cfg.encByte b) (s.crcAdd b)

/-- `WriteByte` of each byte in order (R112 to R116). -/
def writeBytes : List Byte → State → Ran Unit
  | [], s => .ok () s
  | b :: rest, s => (writeByte b s).andThen fun _ s => writeBytes rest s

/-- `write<T>(v)` and `write_i24(v)` (R111 to R116). -/
def writeParam (p : Param) (s : State) : Ran Unit := writeBytes p.bytes s

/-- Each parameter of a call, in order (R165). -/
def writeParams : List Param → State → Ran Unit
  | [], s => .ok () s
  | p :: rest, s => (writeParam p s).andThen fun _ s => writeParams rest s

/-- `write_crc()` (R117): low byte, high byte, then the reset; the two bytes are not fed back. -/
def writeCrc (s : State) : Ran Unit :=
  (emit (s.cfg.encByte (crcLow s.crcValue)) s).andThen fun _ s₁ =>
  (emit (s.cfg.encByte (crcHigh s.crcValue)) s₁).andThen fun _ s₂ =>
  .ok () s₂.crcReset

/-- `write_delay(us)` (R118): the delay nibbles are the same in both dialects. -/
def writeDelay (us : Micros) (s : State) : Ran Unit := emit (timeWord s.cfg.longRounding 0x4 0x5 us) s

/-- `write_wait_for_rx(us)` (R119). -/
def writeWaitForRx (us : Micros) (s : State) : Ran Unit :=
  emit (timeWord s.cfg.longRounding s.cfg.waitShortCmd s.cfg.waitLongCmd us) s

/-- `write_end_of_frame()` (R121). -/
def writeEndOfFrame (s : State) : Ran Unit := emit s.cfg.txFrameend s

/-- `write_rx_end_frame()` (R122). -/
def writeRxEndFrame (s : State) : Ran Unit := emit s.cfg.rxEndframe s

end Sys2Proof.Machine
end

