-- ==== Sys2Proof/Machine/Requests.lean ====
section
/-! DEFINITION. The request builders (spec/44_dispatch.md R165, R166) and the ILC layer's named requests, mode timeout and
broadcast counter (spec/46_ilc_layer.md R193 to R201). -/

namespace Sys2Proof.Machine

open Sys2Proof

/-- `call_function(address, func, timeout_us, params...)` (R82, R165): the words, then the push. -/
def callFunction (address function : Byte) (timeoutUs : Micros) (params : List Param) (s : State) : Ran Unit :=
  (writeByte address s).andThen fun _ s =>
  (writeByte function s).andThen fun _ s =>
  (writeParams params s).andThen fun _ s =>
  (writeCrc s).andThen fun _ s =>
  (writeEndOfFrame s).andThen fun _ s =>
  (writeWaitForRx timeoutUs s).andThen fun _ s =>
  pushCommanded address function s

/-- `data[0], …, data[data_len - 1]` (R166); past the end of the data the byte is a free value (assumption log entry 13). -/
def broadcastData (data : List Byte) (dataLen free : Nat) : List Byte :=
  data.take dataLen ++ (List.range (dataLen - data.length)).map fun i => Config.freeByte (free + i)

/-- `broadcast_function(address, func, counter, delay_us, data, data_len)` (R83, R166): never queued. -/
def broadcastFunction (address function counter : Byte) (delayUs : Micros) (data : List Byte) (dataLen : Nat)
    (s : State) : Ran Unit :=
  (writeByte address (s.takeFree (dataLen - data.length))).andThen fun _ t =>
  (writeByte function t).andThen fun _ t =>
  (writeByte counter t).andThen fun _ t =>
  (writeBytes (broadcastData data dataLen s.free) t).andThen fun _ t =>
  (writeCrc t).andThen fun _ t =>
  (writeEndOfFrame t).andThen fun _ t =>
  writeDelay delayUs t

/-- `ModeTimeout(previous, new)` (R196): 3 is FirmwareUpdate (R191). -/
def modeTimeout (previous : Option Byte) (new : Byte) : Micros :=
  if new = 3 ∨ previous = some 3 then 100000 else 335

/-- `change_ilc_mode(address, mode)` (R195): the mode table is read, not written. -/
def changeIlcMode (address mode : Byte) (s : State) : Ran Unit :=
  callFunction address 65 (modeTimeout (s.modeOf address) mode) [modeParam s.cfg.modeReqWidth mode] s

/-- A request builder (R165, R166, R193, R195, R197 to R200). -/
def runRequest (r : Request) (s : State) : Ran Unit :=
  match r with
  | .callFunction a f t ps => callFunction a f t ps s
  | .broadcastFunction a f c t d n => broadcastFunction a f c t d n s
  | .changeIlcMode a m => changeIlcMode a m s
  | .serverId a => callFunction a 17 s.cfg.timeoutUs.serverId [] s
  | .serverStatus a => callFunction a 18 s.cfg.timeoutUs.serverStatus [] s
  | .setTempAddress a t => callFunction a 72 s.cfg.timeoutUs.setTempAddress [.u8 t] s
  | .resetServer a => callFunction a 107 s.cfg.timeoutUs.resetServer [] s
  | .setOffsetAndSensitivity a ch o g =>
    callFunction a 81 s.cfg.timeoutUs.offsetAndSensitivity [.u8 ch, .f32 o, .f32 g] s
  | .reportCalibrationData a => callFunction a 110 s.cfg.timeoutUs.calibrationData [] s
  | .mezzaninePressure a => callFunction a 119 s.cfg.timeoutUs.mezzaninePressure [] s
  | .hardpointForceStatus a => callFunction a 67 s.cfg.timeoutUs.hardpointForceStatus [] s

/-- `next_broadcast_counter()` (R194): the value returned is the new one. -/
def nextBroadcastCounter (s : State) : State := s.setBcast (s.bcast + 1)

end Sys2Proof.Machine
end

