-- ==== Sys2Proof/Machine/Control.lean ====
section
/-! DEFINITION. `reset()` and `clear()` (spec/70_reset_and_hazards.md R241, R242), the driver calls
(spec/60_exceptions.md R233 to R235) and the request-response arbiter's state machine (R236). -/

namespace Sys2Proof.Machine

open Sys2Proof

/-- `reset()` (R241): the buffer, the queue and what R243 names are kept. -/
def resetOp (s : State) : State := (((s.setCur 0).crcReset).setRecording false).setRecord []

/-- `clear(only_buffers)` (R242). -/
def clearOp (onlyBuffers : Bool) (s : State) : State :=
  let t := resetOp (s.setBuf [])
  if onlyBuffers then t else t.setCq []

/-! ## The driver calls -/

/-- `write_command_fifo(words, len, timeout)` (R233): no block state changes.  A reserved word is refused (R74, spec/93 row
10; assumption log entry 30); a word past the end of the list is a free value (its entry 14). -/
def writeCommandFifo (words : List Word) (len : Nat) (s : State) : Ran Unit :=
  if (words.take len).any s.cfg.reservedWord then refuse .reservedWord
  else
    .ok () ((s.takeFree (len - words.length)).setDriver
      { s.driver with commandFifo := s.driver.commandFifo ++ firstWords words len s.free })

/-- `write_request_fifo(...)` (R234): no block state changes.  The form of the arguments, which are OPEN, is the model's
choice (DESIGN CHOICE, assumption log entry 29). -/
def writeRequestFifo (args : List Word) (s : State) : State :=
  s.setDriver { s.driver with requests := s.driver.requests ++ [args] }

/-- The count word of phase 1 (R235), the number of words available; of more than a u16 counts the word is a free value
(assumption log entry 10). -/
def availableCount (fifo : List Word) (free : Nat) : Word :=
  if fifo.length < 0x10000 then BitVec.ofNat 16 fifo.length else Config.freeWord free

/-- Phase 1 of R235: the count, which is outstanding from now on. -/
def readCount (s : State) : Ran (List Word) :=
  .ok [availableCount s.driver.responseFifo s.free]
    ((s.takeFree (if s.driver.responseFifo.length < 0x10000 then 0 else 1)).setDriver
      { s.driver with counted := some (availableCount s.driver.responseFifo s.free) })

/-- A call with this length is the second call of R235: phase 1 returned it and so many words wait. -/
def Driver.awaits (d : Driver) (len : Nat) : Bool :=
  d.counted.map BitVec.toNat = some len && len ≤ d.responseFifo.length

/-- Phase 2 of R235: `len` words, none of them the count word.  Outside the contract the words, and what waits after them, are
free values (assumption log entry 14). -/
def readWords (len : Nat) (s : State) : Ran (List Word) :=
  if s.driver.awaits len then
    .ok (s.driver.responseFifo.take len)
      (s.setDriver { s.driver with responseFifo := s.driver.responseFifo.drop len, counted := none })
  else
    .ok (firstWords [] len s.free)
      ((s.takeFree (len + 1)).setDriver
        { s.driver with responseFifo := Config.freeWords s.free, counted := Config.freeCount s.free })

/-- `read_u16_response_fifo(words, len, timeout)` (R235): the second call copies as many words as the first one counted; every
other call with `len = 1` is a first call. -/
def readU16ResponseFifo (len : Nat) (s : State) : Ran (List Word) :=
  if len = 1 ∧ s.driver.awaits len = false then readCount s else readWords len s

/-- The FPGA consumes words of the command FIFO (R8). -/
def fpgaTake (n : Nat) (s : State) : State :=
  s.setDriver { s.driver with commandFifo := s.driver.commandFifo.drop n }

/-- The FPGA supplies response words (R8). -/
def fpgaSupply (words : List Word) (s : State) : State :=
  s.setDriver { s.driver with responseFifo := s.driver.responseFifo ++ words }

/-- The flush of the driver's response FIFO in FAULT (R236). -/
def flushResponses (s : State) : State := s.setDriver { s.driver with responseFifo := [], counted := none }

/-! ## The arbiter -/

/-- An arbiter action's end: the next state of the table, or FAULT after an `Err` (R236). -/
def arbGoto {α : Type} (r : Ran α) (next : α → ArbState) : Ran α :=
  match r with
  | .ok v s => .ok v (s.setArb (next v))
  | .err e s => .err e (s.setArb .fault)
  | .stop x => .stop x

/-- The state after phase 1 of a response read (R236). -/
def afterCount (ws : List Word) : ArbState :=
  match ws with
  | n :: _ => if n = 0 then .check else .readWords n
  | [] => .check

/-- One transition of the arbiter (R236). -/
def arbiterStep (a : ArbAction) (s : State) : Ran Value :=
  match s.arb, a with
  | .idle, .advance _ => arbGoto (.ok Value.none (clearOp true s)) fun _ => .compose
  | .compose, .build r => arbGoto (runRequest r s).noValue fun _ => .compose
  | .compose, .batchComplete => arbGoto (.ok Value.none s) fun _ => .send
  | .send, .advance _ => arbGoto (writeCommandFifo s.buf s.buf.length s).noValue fun _ => .request
  | .request, .signal args => arbGoto (.ok Value.none (writeRequestFifo args s)) fun _ => .readCount
  | .readCount, .advance _ => (arbGoto (readCount s) afterCount).map Value.words
  | .readWords n, .advance _ => (arbGoto (readWords n.toNat s) .process).map Value.words
  | .process ws, .process more =>
    arbGoto (processResponse ws ws.length s).noValue fun _ => if more then .readCount else .check
  | .check, .advance _ => arbGoto (checkCommandedEmpty s).noValue fun _ => .idle
  | .fault, .advance _ => arbGoto (.ok Value.none (clearOp false (flushResponses s))) fun _ => .idle
  | _, _ => refuse .arbiterNoTransition

end Sys2Proof.Machine
end

