-- ==== Sys2Proof/Machine/Words.lean ====
section
/-! DEFINITION. The meanings of the instruction words (spec/40_instruction_words.md R90 to R103), one definition per row of
the opcode table: the word itself, and the class `decode_word` gives it (R73).  What each read operation then does with it is
`applyWordOp`. -/

namespace Sys2Proof.Machine

open Sys2Proof

/-- WRITE (R90). -/
def execWrite (hi : BitVec 3) (b : Byte) (lo : BitVec 1) (s : State) : Host.Outcome State Fault Refusal :=
  executeWord (.write b) (mkWord 0x1 (mkWritePayload hi b lo)) s

/-- TX_FRAMEEND (R91). -/
def execFrameend (s : State) : Host.Outcome State Fault Refusal := executeWord .txFrameend s.cfg.txFrameend s

/-- A nibble-2 word that is not TX_FRAMEEND (R103). -/
def execBadSentinel2 (p : Payload) (s : State) : Host.Outcome State Fault Refusal :=
  executeWord (.badSentinel 0x2 p) (mkWord 0x2 p) s

/-- TX_TIMESTAMP (R92). -/
def execTxts (p : Payload) (s : State) : Host.Outcome State Fault Refusal := executeWord .txTimestamp (mkWord 0x3 p) s

/-- DELAY (R93). -/
def execDelay (us : Payload) (s : State) : Host.Outcome State Fault Refusal := executeWord (.delay us) (mkWord 0x4 us) s

/-- LONG_DELAY (R94). -/
def execLdelay (ms : Payload) (s : State) : Host.Outcome State Fault Refusal :=
  executeWord (.longDelay ms) (mkWord 0x5 ms) s

/-- TX_WAIT_RX (R95). -/
def execWaitrx (us : Payload) (s : State) : Host.Outcome State Fault Refusal :=
  executeWord (.txWaitRx us) (mkWord 0x6 us) s

/-- TX_IRQTRIGGER (R96). -/
def execIrq (p : Payload) (s : State) : Host.Outcome State Fault Refusal := executeWord .txIrqtrigger (mkWord 0x7 p) s

/-- TX_WAIT_TRIGGER (R97). -/
def execWaittrig (p : Payload) (s : State) : Host.Outcome State Fault Refusal :=
  executeWord .txWaitTrigger (mkWord 0x8 p) s

/-- TX_WAIT_LONG_RX (R98). -/
def execLwaitrx (ms : Payload) (s : State) : Host.Outcome State Fault Refusal :=
  executeWord (.txWaitLongRx ms) (mkWord 0x9 ms) s

/-- RX_ENDFRAME (R99). -/
def execRxend (s : State) : Host.Outcome State Fault Refusal := executeWord .rxEndframe s.cfg.rxEndframe s

/-- A nibble-A word that is not RX_ENDFRAME (R103). -/
def execBadSentinelA (p : Payload) (s : State) : Host.Outcome State Fault Refusal :=
  executeWord (.badSentinel 0xA p) (mkWord 0xA p) s

/-- RX_TIMESTAMP (R100). -/
def execRxts (p : Payload) (s : State) : Host.Outcome State Fault Refusal := executeWord .rxTimestamp (mkWord 0xB p) s

/-- Nibble 0x0 (R101). -/
def execReserved0 (p : Payload) (s : State) : Host.Outcome State Fault Refusal :=
  executeWord (.reserved 0x0) (mkWord 0x0 p) s

/-- Nibble 0xC (R102). -/
def execReservedC (p : Payload) (s : State) : Host.Outcome State Fault Refusal :=
  executeWord (.reserved 0xC) (mkWord 0xC p) s

/-- Nibble 0xD (R102). -/
def execReservedD (p : Payload) (s : State) : Host.Outcome State Fault Refusal :=
  executeWord (.reserved 0xD) (mkWord 0xD p) s

/-- Nibble 0xE (R102). -/
def execReservedE (p : Payload) (s : State) : Host.Outcome State Fault Refusal :=
  executeWord (.reserved 0xE) (mkWord 0xE p) s

/-- Nibble 0xF (R102). -/
def execReservedF (p : Payload) (s : State) : Host.Outcome State Fault Refusal :=
  executeWord (.reserved 0xF) (mkWord 0xF p) s

/-- A raw byte of the PLAIN dialect (R69, R101). -/
def execByte (b : Byte) (s : State) : Host.Outcome State Fault Refusal := executeWord (.byte b) (b.setWidth 16) s

end Sys2Proof.Machine
end

