-- ==== Sys2Proof/Machine/Dispatch.lean ====
section
/-! DEFINITION. One arm per constructor of Instr. -/

namespace Sys2Proof.Machine

open Sys2Proof

def exec (i : Instr) (s : State) : Host.Outcome State Fault Refusal :=
  match i with
  | .write hi b lo => Sys2Proof.Machine.execWrite hi b lo s
  | .frameend => Sys2Proof.Machine.execFrameend s
  | .badSentinel2 p => Sys2Proof.Machine.execBadSentinel2 p s
  | .txts p => Sys2Proof.Machine.execTxts p s
  | .delay us => Sys2Proof.Machine.execDelay us s
  | .ldelay ms => Sys2Proof.Machine.execLdelay ms s
  | .waitrx us => Sys2Proof.Machine.execWaitrx us s
  | .irq p => Sys2Proof.Machine.execIrq p s
  | .waittrig p => Sys2Proof.Machine.execWaittrig p s
  | .lwaitrx ms => Sys2Proof.Machine.execLwaitrx ms s
  | .rxend => Sys2Proof.Machine.execRxend s
  | .badSentinelA p => Sys2Proof.Machine.execBadSentinelA p s
  | .rxts p => Sys2Proof.Machine.execRxts p s
  | .reserved0 p => Sys2Proof.Machine.execReserved0 p s
  | .reservedC p => Sys2Proof.Machine.execReservedC p s
  | .reservedD p => Sys2Proof.Machine.execReservedD p s
  | .reservedE p => Sys2Proof.Machine.execReservedE p s
  | .reservedF p => Sys2Proof.Machine.execReservedF p s
  | .byte b => Sys2Proof.Machine.execByte b s
  | .serverId a => Sys2Proof.Machine.execServerId a s
  | .serverIdError a => Sys2Proof.Machine.execServerIdError a s
  | .serverStatus a => Sys2Proof.Machine.execServerStatus a s
  | .serverStatusError a => Sys2Proof.Machine.execServerStatusError a s
  | .changeMode a => Sys2Proof.Machine.execChangeMode a s
  | .changeModeError a => Sys2Proof.Machine.execChangeModeError a s
  | .setTempAddress a => Sys2Proof.Machine.execSetTempAddress a s
  | .setTempAddressError a => Sys2Proof.Machine.execSetTempAddressError a s
  | .resetServer a => Sys2Proof.Machine.execResetServer a s
  | .resetServerError a => Sys2Proof.Machine.execResetServerError a s
  | .hardpointForceStatus a => Sys2Proof.Machine.execHardpointForceStatus a s
  | .hardpointForceStatusError a => Sys2Proof.Machine.execHardpointForceStatusError a s
  | .setOffsetAndSensitivity a => Sys2Proof.Machine.execSetOffsetAndSensitivity a s
  | .setOffsetAndSensitivityError a => Sys2Proof.Machine.execSetOffsetAndSensitivityError a s
  | .reportCalibrationData a => Sys2Proof.Machine.execReportCalibrationData a s
  | .reportCalibrationDataError a => Sys2Proof.Machine.execReportCalibrationDataError a s
  | .mezzaninePressure a => Sys2Proof.Machine.execMezzaninePressure a s
  | .mezzaninePressureError a => Sys2Proof.Machine.execMezzaninePressureError a s

end Sys2Proof.Machine
end

