-- ==== Sys2Proof/Machine/Fetch.lean ====
section
/-! DEFINITION. One host operation (spec/00_scope.md R8): the operations that are no single instruction are run whole; a
one-word read fetches, decodes and executes the instruction word at the cursor; a frame iteration fetches, decodes and
executes the frame header there. -/

namespace Sys2Proof.Machine

open Sys2Proof

/-- An operation that changes the state and returns nothing. -/
def done (s : State) : Ran Value := .ok .none s

/-- A read that looks at the word at the cursor (R126, R134 to R138, R141). -/
def stepWord (o : WordOp) (s : State) : Host.Outcome State Fault Refusal :=
  match s.fetch with
  | some w => exec (decodeWord s.cfg w) s
  | none => finish (wordOpAtEnd o s)

/-- One iteration of the dispatch loop (R153): the header is fetched and decoded; a function byte that is no row of the table
is treated as the registry says (R79). -/
def stepFrame (s : State) : Host.Outcome State Fault Refusal :=
  match frameHead s with
  | .ok (some (a, f)) t =>
    match decodeFrame a f with
    | .ok i => exec i t
    | .error _ => finish (frameBody a f t).noValue
  | .ok none t => finish (done t)
  | .err e t => finish (raise e t)
  | .stop x => finish (.stop x)

/-- One host operation. -/
def runOp (o : HostOp) (s : State) : Host.Outcome State Fault Refusal :=
  match o with
  | .word o => stepWord o s
  | .decodeWord w => exec (decodeWord s.cfg w) s
  | .frame => stepFrame s
  | .endOfBuffer => finish (.ok (.bool s.endOfBuffer) s)
  | .readWide k => finish (readWide k s)
  | .readString n => finish (readString n s)
  | .checkCrc => finish (checkCrc s).noValue
  | .write p => finish (writeParam p s).noValue
  | .writeCrc => finish (writeCrc s).noValue
  | .writeDelay us => finish (writeDelay us s).noValue
  | .writeWaitForRx us => finish (writeWaitForRx us s).noValue
  | .writeEndOfFrame => finish (writeEndOfFrame s).noValue
  | .writeRxEndFrame => finish (writeRxEndFrame s).noValue
  | .addResponse e => finish (addResponse e s).noValue
  | .processResponse ws n => finish (processResponse ws n s).noValue
  | .pushCommanded a f => finish (pushCommanded a f s).noValue
  | .checkCommandedEmpty => finish (checkCommandedEmpty s).noValue
  | .request r => finish (runRequest r s).noValue
  | .recordChanges => finish (done (recordChanges s))
  | .pauseRecordChanges => finish (done (pauseRecordChanges s))
  | .checkRecording cached => finish (.ok (.recording (checkRecording cached s).1 (checkRecording cached s).2) s)
  | .nextBroadcastCounter =>
    finish (.ok (.uint (nextBroadcastCounter s).bcast.toNat) (nextBroadcastCounter s))
  | .reset => finish (done (resetOp s))
  | .clear b => finish (done (clearOp b s))
  | .snapshot => finish (.ok (.words s.buf) s)
  | .writeCommandFifo ws n _ => finish (writeCommandFifo ws n s).noValue
  | .writeRequestFifo args => finish (done (writeRequestFifo args s))
  | .readU16ResponseFifo n _ => finish ((readU16ResponseFifo n s).map Value.words)
  | .fpgaTake n => finish (done (fpgaTake n s))
  | .fpgaSupply ws => finish (done (fpgaSupply ws s))
  | .arbiter a => finish (arbiterStep a s)

/-- The operation under which the block consumes an instruction word of its own kind (R90 to R103): byte words by a byte read,
the sentinels by `read_end_of_frame`, the time words by the read for their kind, every other word by `next`, which consumes
one word of any kind (R135). -/
def nativeOp : Instr → HostOp
  | .write _ _ _ => .word .readU8
  | .frameend => .word .readEndOfFrame
  | .badSentinel2 _ => .word .readEndOfFrame
  | .txts _ => .word .next
  | .delay _ => .word .readDelay
  | .ldelay _ => .word .readDelay
  | .waitrx _ => .word .readWaitForRx
  | .irq _ => .word .next
  | .waittrig _ => .word .next
  | .lwaitrx _ => .word .readWaitForRx
  | .rxend => .word .next
  | .badSentinelA _ => .word .readEndOfFrame
  | .rxts _ => .word .next
  | .reserved0 _ => .word .next
  | .reservedC _ => .word .next
  | .reservedD _ => .word .next
  | .reservedE _ => .word .next
  | .reservedF _ => .word .next
  | .byte _ => .word .readU8
  | .serverId _ => .frame
  | .serverIdError _ => .frame
  | .serverStatus _ => .frame
  | .serverStatusError _ => .frame
  | .changeMode _ => .frame
  | .changeModeError _ => .frame
  | .setTempAddress _ => .frame
  | .setTempAddressError _ => .frame
  | .resetServer _ => .frame
  | .resetServerError _ => .frame
  | .hardpointForceStatus _ => .frame
  | .hardpointForceStatusError _ => .frame
  | .setOffsetAndSensitivity _ => .frame
  | .setOffsetAndSensitivityError _ => .frame
  | .reportCalibrationData _ => .frame
  | .reportCalibrationDataError _ => .frame
  | .mezzaninePressure _ => .frame
  | .mezzaninePressureError _ => .frame

/-- A table row's word placed for the next step: the word at the cursor, the codec of the row's dialect, and the operation that
consumes it. -/
def State.placeWord (s : State) (w : Word) : State :=
  let c := { s.cfg with dialect := tableDialect w, txFrameend := 0x20DA, rxEndframe := 0xA000 }
  { (s.setCfg c).placeAtCursor [w] with ops := nativeOp (decodeWord c w) :: s.ops }

/-- A table row's function byte placed for the next step: the header of a frame from address 0 at the cursor, and one
iteration of the dispatch loop.  The delimiter policy is `NONE`, under which a header is never taken for a delimiter. -/
def State.placeFrame (s : State) (function : Byte) : State :=
  let c := { s.cfg with rxDelimiterPolicy := .keep }
  { (s.setCfg c).placeAtCursor [c.layByte 0, c.layByte function] with ops := .frame :: s.ops }

end Sys2Proof.Machine
end

