-- ==== Sys2Proof/Machine/Step.lean ====
section
/-! DEFINITION. The step: one host operation, atomic (spec/00_scope.md R8). -/

namespace Sys2Proof.Machine

open Sys2Proof

/-- One step.  With no operation issued the block does nothing (R8). -/
def step (s : State) : Host.Outcome State Fault Refusal :=
  match s.ops with
  | [] => .next s
  | o :: _ => runOp o s.begin

/-- The state in which the next step fetches and runs the instruction whose table bits are `w`. -/
def State.withFetchWord (s : State) (nbits w : Nat) : State :=
  if nbits = 8 then s.placeFrame (BitVec.ofNat 8 w) else s.placeWord (BitVec.ofNat 16 w)

end Sys2Proof.Machine
end

