-- ==== Sys2Proof/Machine/Assembly.lean ====
section
/-! DEFINITION. The spec's assembly syntax (spec/30_encoding.md R84, R86): one line of text as data, and the words it stands
for.  It is the notation of the spec's test programs, not an operation of the block. -/

namespace Sys2Proof.Machine

open Sys2Proof

/-- A line: an instruction word (R84) or a pseudo-instruction (R86). -/
inductive AsmLine where
  | write (b : Byte)
  | frameend
  | txts
  | delay (n : Payload)
  | ldelay (n : Payload)
  | waitrx (n : Payload)
  | irq
  | waittrig
  | lwaitrx (n : Payload)
  | rxend
  | rxts
  | word (v : Word)
  | bytes (bs : List Byte)
  | u16 (v : BitVec 16)
  | u32 (v : BitVec 32)
  | u64 (v : BitVec 64)
  | i24 (v : Int)
  | f32 (bits : BitVec 32)
  | crc
  | wait (us : Micros)
  | sleep (us : Micros)
  | frame (address function : Byte) (payload : List Byte)
  deriving DecidableEq, Repr

/-- `WRITE b1 ... WRITE bk`, and the CRC of the bytes written since the last `CRC`. -/
def asmBytes (c : Config) (crc : Word) (bs : List Byte) : List Word × Word := (bs.map c.encByte, crcBytes crc bs)

/-- The two words of `CRC`; the next bytes start a new CRC. -/
def asmCrc (c : Config) (crc : Word) : List Word × Word :=
  ([c.encByte (crcLow crc), c.encByte (crcHigh crc)], 0xFFFF)

/-- The words of one line, and the CRC of the bytes written since the last `CRC` (R84, R86). -/
def assembleLine (c : Config) (crc : Word) : AsmLine → List Word × Word
  | .write b => asmBytes c crc [b]
  | .frameend => ([c.txFrameend], crc)
  | .txts => ([mkWord 0x3 0], crc)
  | .delay n => ([mkWord 0x4 n], crc)
  | .ldelay n => ([mkWord 0x5 n], crc)
  | .waitrx n => ([mkWord 0x6 n], crc)
  | .irq => ([mkWord 0x7 0], crc)
  | .waittrig => ([mkWord 0x8 0], crc)
  | .lwaitrx n => ([mkWord 0x9 n], crc)
  | .rxend => ([c.rxEndframe], crc)
  | .rxts => ([mkWord 0xB 0], crc)
  | .word v => ([v], crc)
  | .bytes bs => asmBytes c crc bs
  | .u16 v => asmBytes c crc (Param.u16 v).bytes
  | .u32 v => asmBytes c crc (Param.u32 v).bytes
  | .u64 v => asmBytes c crc (Param.u64 v).bytes
  | .i24 v => asmBytes c crc (Param.i24 v).bytes
  | .f32 bits => asmBytes c crc (Param.f32 bits).bytes
  | .crc => asmCrc c crc
  | .wait us => ([timeWord c.longRounding c.waitShortCmd c.waitLongCmd us], crc)
  | .sleep us => ([timeWord c.longRounding 0x4 0x5 us], crc)
  | .frame a f bs =>
    let w := asmBytes c crc (a :: f :: bs)
    let k := asmCrc c w.2
    (w.1 ++ k.1, k.2)

/-- The words of a text, from the CRC seed. -/
def assembleFrom (c : Config) : Word → List AsmLine → List Word
  | _, [] => []
  | crc, l :: rest => (assembleLine c crc l).1 ++ assembleFrom c (assembleLine c crc l).2 rest

/-- The words of a text. -/
def assemble (c : Config) (text : List AsmLine) : List Word := assembleFrom c 0xFFFF text

end Sys2Proof.Machine
end

