-- ==== Sys2Proof/Safety.lean ====
section
/-! DEFINITION. What counts as a good state of the block and a safe run, in the terms the claims use. -/

namespace Sys2Proof.Safety

open Sys2Proof Sys2Proof.Machine

/-- Every pair in the queue is of a unicast address: "addresses 0, 148, 149, 250 are broadcast and must not be queued" (R34). -/
def queueUnicast (s : State) : Prop := ∀ p ∈ s.cq, s.cfg.broadcastSet.contains p.1 = false

/-- The queue is within `QDEPTH` (R20). -/
def queueWithin (s : State) : Prop := ∀ n, s.cfg.qDepth = some n → s.cq.length ≤ n

/-- The good states: the legal values of R20 and R22, the canonical forms of the memory and of the two maps, and a
configuration a block can be built with (R30, R150). -/
structure Inv (s : State) : Prop where
  cursor    : s.cur ≤ s.buf.length
  buffer    : Memory.wf s.cfg.bufWords s.buf = true
  within    : queueWithin s
  unicast   : queueUnicast s
  cacheForm : Table.wf s.cache = true
  modeForm  : Table.wf s.lastMode = true
  config    : s.cfg.wf = true

/-- The step has a next state: no fault and no refusal. -/
def Steps (s : State) : Prop := ∃ t, step s = .next t

/-- The state after `n` steps, if every one of them has a next state. -/
def runs : Nat → State → Option State
  | 0, s => some s
  | n + 1, s =>
    match step s with
    | .next t => runs n t
    | .fault _ => none
    | .refused _ => none

end Sys2Proof.Safety
end

