-- ==== Sys2Proof/WellFormed.lean ====
section
/-! DEFINITION. Which instructions have words of their own under a configuration: a level 1 instruction is well formed when
its word decodes to it and to no other (spec/30_encoding.md R73: the whole-word tests and the PLAIN byte test come first),
a level 2 instruction when a data byte survives its word (R67 to R69). -/

namespace Sys2Proof

/-- The word is one of the two whole-word sentinels of the configuration (R71). -/
def Config.isSentinel (c : Config) (w : Word) : Bool := w = c.txFrameend || w = c.rxEndframe

/-- A byte written by `ENC_BYTE` is the byte `DEC_BYTE` reads back: in the ILC dialect the mask leaves bits 8:1 clear. -/
def Config.byteCodecOk (c : Config) : Bool := c.dialect = .plain || c.txMask &&& 0x01FE = 0

/-- The instruction's own words decode to it under the configuration. -/
def wellFormed (c : Config) : Instr → Bool
  | .write hi b lo => !c.isSentinel (mkWord 0x1 (mkWritePayload hi b lo))
  | .frameend => true
  | .badSentinel2 p => !c.isSentinel (mkWord 0x2 p)
  | .txts p => !c.isSentinel (mkWord 0x3 p)
  | .delay us => !c.isSentinel (mkWord 0x4 us)
  | .ldelay ms => !c.isSentinel (mkWord 0x5 ms)
  | .waitrx us => !c.isSentinel (mkWord 0x6 us)
  | .irq p => !c.isSentinel (mkWord 0x7 p)
  | .waittrig p => !c.isSentinel (mkWord 0x8 p)
  | .lwaitrx ms => !c.isSentinel (mkWord 0x9 ms)
  | .rxend => c.rxEndframe ≠ c.txFrameend
  | .badSentinelA p => !c.isSentinel (mkWord 0xA p)
  | .rxts p => !c.isSentinel (mkWord 0xB p)
  | .reserved0 p => !c.isSentinel (mkWord 0x0 p) && !(c.dialect = .plain && p.extractLsb' 8 4 = 0)
  | .reservedC p => !c.isSentinel (mkWord 0xC p)
  | .reservedD p => !c.isSentinel (mkWord 0xD p)
  | .reservedE p => !c.isSentinel (mkWord 0xE p)
  | .reservedF p => !c.isSentinel (mkWord 0xF p)
  | .byte b => c.dialect = .plain && !c.isSentinel (b.setWidth 16)
  | .serverId _ => c.byteCodecOk
  | .serverIdError _ => c.byteCodecOk
  | .serverStatus _ => c.byteCodecOk
  | .serverStatusError _ => c.byteCodecOk
  | .changeMode _ => c.byteCodecOk
  | .changeModeError _ => c.byteCodecOk
  | .setTempAddress _ => c.byteCodecOk
  | .setTempAddressError _ => c.byteCodecOk
  | .resetServer _ => c.byteCodecOk
  | .resetServerError _ => c.byteCodecOk
  | .hardpointForceStatus _ => c.byteCodecOk
  | .hardpointForceStatusError _ => c.byteCodecOk
  | .setOffsetAndSensitivity _ => c.byteCodecOk
  | .setOffsetAndSensitivityError _ => c.byteCodecOk
  | .reportCalibrationData _ => c.byteCodecOk
  | .reportCalibrationDataError _ => c.byteCodecOk
  | .mezzaninePressure _ => c.byteCodecOk
  | .mezzaninePressureError _ => c.byteCodecOk

end Sys2Proof
end

