-- ==== Sys2Proof/Certificates/Slice0/Obligations.lean ====
section
/-! DEFINITION. The statements for the provers.  Each docstring names the rule or section of spec/ it formalises; where a
clause rests on a decision or an inference that the spec marks as its own, or on a choice of this model, it says so. -/

open Sys2Proof Sys2Proof.Machine Sys2Proof.Safety

/-! ## Terms the statements use -/

/-- The bytes stand in the buffer from the cursor on, as `DEC_BYTE` reads its words. -/
def Sys2Proof.Claims.ahead (s : State) (bytes : List Byte) : Prop := bytes <+: (s.buf.drop s.cur).map s.cfg.decByte

/-- The rest of a reply stands in the buffer: its payload, then the CRC of what the accumulator has taken and the payload,
low byte first. -/
def Sys2Proof.Claims.replyAhead (s : State) (payload : List Byte) : Prop :=
  Claims.ahead s (payload ++ [crcLow (crcBytes s.crc payload), crcHigh (crcBytes s.crc payload)])

/-- The record after the bytes were read: a running record takes them. -/
def Sys2Proof.Claims.recorded (s : State) (bytes : List Byte) : List Byte :=
  bif s.recording then s.record ++ bytes else s.record

/-- The registry decodes `f` with `d`, and `f` is no error code. -/
def Sys2Proof.Claims.registered (c : Config) (f : Byte) (d : List DecoderStep) : Prop :=
  (∃ e, c.normalEntry f = some e ∧ e.decoder = d) ∧ c.errorEntry f = none

/-- The four bytes of a 32-bit pattern, most significant first. -/
def Sys2Proof.Claims.be32 (v : BitVec 32) : List Byte :=
  [v.extractLsb' 24 8, v.extractLsb' 16 8, v.extractLsb' 8 8, v.extractLsb' 0 8]

/-- The bytes of a calibration report: six groups of four floats, group by group. -/
def Sys2Proof.Claims.calibrationBytes (g : CalGroup → Fin 4 → BitVec 32) : List Byte :=
  [CalGroup.mainADCK, .mainOffset, .mainSensitivity, .backupADCK, .backupOffset, .backupSensitivity].flatMap fun k =>
    [0, 1, 2, 3].flatMap fun i => Claims.be32 (g k i)

/-- The floats of one group. -/
def Sys2Proof.Claims.group (g : CalGroup → Fin 4 → BitVec 32) (k : CalGroup) : List (BitVec 32) := [g k 0, g k 1, g k 2, g k 3]

/-- The instructions whose function byte is a default error code, with that code and its normal code. -/
def Sys2Proof.Claims.errorReplies (a : Byte) : List (Instr × Byte × Byte) :=
  [(.serverIdError a, 145, 17), (.serverStatusError a, 146, 18), (.changeModeError a, 193, 65),
   (.setTempAddressError a, 200, 72), (.resetServerError a, 235, 107), (.hardpointForceStatusError a, 195, 67),
   (.setOffsetAndSensitivityError a, 209, 81), (.reportCalibrationDataError a, 238, 110),
   (.mezzaninePressureError a, 247, 119)]

/-- An unbounded word buffer (the value for this hardware). -/
def Sys2Proof.Claims.unbounded (s : State) : Prop := s.cfg.bufWords = none

/-- The buffer has room for `n` more words: it is unbounded, or they stay within its bound. -/
def Sys2Proof.Claims.room (s : State) (n : Nat) : Prop := ∀ m, s.cfg.bufWords = some m → s.buf.length + n ≤ m

/-- A pair of this address is not queued, or the queue has room for it. -/
def Sys2Proof.Claims.queueRoom (s : State) (a : Byte) : Prop := a ∈ s.cfg.broadcastSet ∨ s.cfg.qDepth ≠ some s.cq.length

/-- The words of a frame: its bytes, then the CRC of what the accumulator has taken and the bytes, low byte first. -/
def Sys2Proof.Claims.frameWords (c : Config) (crc : Word) (bytes : List Byte) : List Word :=
  (bytes ++ [crcLow (crcBytes crc bytes), crcHigh (crcBytes crc bytes)]).map c.encByte

/-- The words of a request: the frame, TX_FRAMEEND and the wait word. -/
def Sys2Proof.Claims.requestWords (c : Config) (crc : Word) (bytes : List Byte) (us : Micros) : List Word :=
  Claims.frameWords c crc bytes ++ [c.txFrameend, timeWord c.longRounding c.waitShortCmd c.waitLongCmd us]

/-- The state after a request `[a][f][payload]` with a wait of `us`: its words at the end of the buffer, the accumulator fresh,
the pair at the tail of the queue unless the address is a broadcast one; everything else as before. -/
def Sys2Proof.Claims.requested (a f : Byte) (us : Micros) (payload : List Byte) (s : State) : State :=
  { s with
    buf := s.buf ++ Claims.requestWords s.cfg s.crc (a :: f :: payload) us
    crc := 0xFFFF
    cq := if a ∈ s.cfg.broadcastSet then s.cq else s.cq ++ [(a, f)] }

/-- The named requests: address, function code, timeout and payload of each. -/
def Sys2Proof.Claims.namedRequest (c : Config) : Request → Option (Byte × Byte × Micros × List Byte)
  | .serverId a => some (a, 17, c.timeoutUs.serverId, [])
  | .serverStatus a => some (a, 18, c.timeoutUs.serverStatus, [])
  | .setTempAddress a t => some (a, 72, c.timeoutUs.setTempAddress, [t])
  | .resetServer a => some (a, 107, c.timeoutUs.resetServer, [])
  | .setOffsetAndSensitivity a ch o g =>
    some (a, 81, c.timeoutUs.offsetAndSensitivity, ch :: (Claims.be32 o ++ Claims.be32 g))
  | .reportCalibrationData a => some (a, 110, c.timeoutUs.calibrationData, [])
  | .mezzaninePressure a => some (a, 119, c.timeoutUs.mezzaninePressure, [])
  | .hardpointForceStatus a => some (a, 67, c.timeoutUs.hardpointForceStatus, [])
  | .callFunction _ _ _ _ => none
  | .broadcastFunction _ _ _ _ _ _ => none
  | .changeIlcMode _ _ => none

/-- The payload of a reply of function `f` has the length its default decoder reads. -/
def Sys2Proof.Claims.payloadOf (f : Byte) (p : List Byte) : Prop :=
  ((f = 107 ∨ f = 81) ∧ p = []) ∨ (f = 72 ∧ p.length = 1) ∨ (f = 65 ∧ p.length = 2) ∨ (f = 18 ∧ p.length = 5) ∨
  (f = 67 ∧ p.length = 9) ∨ (f = 119 ∧ p.length = 16) ∨ (f = 110 ∧ p.length = 96) ∨
  (f = 17 ∧ ∃ l rest, p = l :: rest ∧ 12 ≤ l.toNat ∧ rest.length = l.toNat)

/-- The registry decodes the nine functions with the spec's default decoders. -/
def Sys2Proof.Claims.defaultDecoders (c : Config) : Prop :=
  Claims.registered c 17 decoder17 ∧ Claims.registered c 18 (decoder18 .mode) ∧ Claims.registered c 65 (decoder65 .mode) ∧
  Claims.registered c 72 decoder72 ∧ Claims.registered c 107 decoder107 ∧ Claims.registered c 67 decoder67 ∧
  Claims.registered c 81 decoder81 ∧ Claims.registered c 110 decoder110 ∧ Claims.registered c 119 decoder119

/-- The four checks of 44_dispatch.md R150 on a registry. -/
def Sys2Proof.Claims.wellFormedRegistry (r : List Entry) : Prop :=
  (∀ e ∈ r, e.normal ≠ e.error) ∧ r.Pairwise (fun e e' => e.normal ≠ e'.normal) ∧
  r.Pairwise (fun e e' => e.error ≠ e'.error) ∧ ∀ e ∈ r, ∀ e' ∈ r, e.normal ≠ e'.error

/-- The name a decoder step uses. -/
def Sys2Proof.Claims.uses : DecoderStep → Option FieldName
  | .readString (.minus v _) _ => some v
  | .setMode v => some v
  | _ => none

/-- The name a decoder step binds. -/
def Sys2Proof.Claims.binds : DecoderStep → Option FieldName
  | .read _ n => some n
  | .readString _ n => some n
  | _ => none

/-- The grammar of 44_dispatch.md R152: every name a step uses is bound by an earlier step. -/
def Sys2Proof.Claims.inGrammar (d : List DecoderStep) : Prop :=
  ∀ before x after v, d = before ++ x :: after → Claims.uses x = some v → ∃ y ∈ before, Claims.binds y = some v

/-- The host operations that only append words to the buffer. -/
def Sys2Proof.Claims.writes : HostOp → Bool
  | .write _ => true
  | .writeCrc => true
  | .writeDelay _ => true
  | .writeWaitForRx _ => true
  | .writeEndOfFrame => true
  | .writeRxEndFrame => true
  | .request _ => true
  | _ => false

/-- The host operations that run the dispatch loop or an iteration of it. -/
def Sys2Proof.Claims.dispatches : HostOp → Bool
  | .frame => true
  | .processResponse _ _ => true
  | .arbiter (.process _) => true
  | _ => false

/-- The host operations that may set the cursor back: the seat step, `reset()`, `clear()`, alone or through the arbiter. -/
def Sys2Proof.Claims.rewinds : HostOp → Bool
  | .processResponse _ _ => true
  | .reset => true
  | .clear _ => true
  | .arbiter _ => true
  | _ => false

/-- `decode_word` as R73 writes it, on the bits of the word. -/
def Sys2Proof.Claims.specClass (c : Config) (w : Word) : WordClass :=
  if w = c.txFrameend then .txFrameend
  else if w = c.rxEndframe then .rxEndframe
  else if c.dialect = .plain ∧ w.toNat < 0x100 then .byte (BitVec.ofNat 8 w.toNat)
  else if w.toNat / 4096 = 1 then .write (BitVec.ofNat 8 (w.toNat / 2))
  else if w.toNat / 4096 = 2 then .badSentinel 0x2 (BitVec.ofNat 12 w.toNat)
  else if w.toNat / 4096 = 3 then .txTimestamp
  else if w.toNat / 4096 = 4 then .delay (BitVec.ofNat 12 w.toNat)
  else if w.toNat / 4096 = 5 then .longDelay (BitVec.ofNat 12 w.toNat)
  else if w.toNat / 4096 = 6 then .txWaitRx (BitVec.ofNat 12 w.toNat)
  else if w.toNat / 4096 = 7 then .txIrqtrigger
  else if w.toNat / 4096 = 8 then .txWaitTrigger
  else if w.toNat / 4096 = 9 then .txWaitLongRx (BitVec.ofNat 12 w.toNat)
  else if w.toNat / 4096 = 10 then .badSentinel 0xA (BitVec.ofNat 12 w.toNat)
  else if w.toNat / 4096 = 11 then .rxTimestamp
  else .reserved (BitVec.ofNat 4 (w.toNat / 4096))

/-- A reserved word: no whole-word sentinel, and of nibble 0x0 in the ILC dialect or of nibble 0xC to 0xF
(93_implementation_defined.md row 10), but for the nibbles the PLAIN dialect's wait commands take (assumption log entry 30). -/
def Sys2Proof.Claims.reserved (c : Config) (w : Word) : Prop :=
  w ≠ c.txFrameend ∧ w ≠ c.rxEndframe ∧
  ((c.dialect = .ilc ∧ w.toNat < 0x1000) ∨
    (0xC000 ≤ w.toNat ∧ (c.dialect = .ilc ∨ (nibble w ≠ c.waitShortCmd ∧ nibble w ≠ c.waitLongCmd))))

/-- The fields that 10_state.md R31 fixes for the words a request is made of, in the ILC dialect. -/
def Sys2Proof.Claims.ilcFields (c : Config) : Prop :=
  c.dialect = .ilc → c.txMask = 0x1200 ∧ c.waitShortCmd = 0x6 ∧ c.waitLongCmd = 0x9

/-- `(crc >> 1) ^ 0xA001` or `crc >> 1`, on numbers. -/
def Sys2Proof.Claims.crcIteration (x : Nat) : Nat := if x % 2 = 1 then (x / 2) ^^^ 0xA001 else x / 2

/-- The arbiter's next state by the table of R236, after an action that ended without an error and, in READ_COUNT and
READ_WORDS, returned the words `ws`. -/
def Sys2Proof.Claims.arbiterTable (st : ArbState) (a : ArbAction) (ws : List Word) : Option ArbState :=
  match st, a with
  | .idle, .advance _ => some .compose
  | .compose, .build _ => some .compose
  | .compose, .batchComplete => some .send
  | .send, .advance _ => some .request
  | .request, .signal _ => some .readCount
  | .readCount, .advance _ => if ws = [0] then some .check else ws.head?.map .readWords
  | .readWords _, .advance _ => some (.process ws)
  | .process _, .process true => some .readCount
  | .process _, .process false => some .check
  | .check, .advance _ => some .idle
  | .fault, .advance _ => some .idle
  | _, _ => none

/-- What the spec refuses is not what the host asks: the registry stays open and well formed, the decoder is in the grammar,
the length is within the words, no reserved word is sent, and the arbiter's state has the action. -/
def Sys2Proof.Claims.withinContract (s : State) : HostOp → Prop
  | .addResponse e => s.registrySealed = false ∧ Claims.wellFormedRegistry (s.cfg.registry ++ [e]) ∧ Claims.inGrammar e.decoder
  | .processResponse ws n => n ≤ ws.length
  | .writeCommandFifo ws n _ => ∀ w ∈ ws.take n, ¬ Claims.reserved s.cfg w
  | .arbiter a => Claims.arbiterTable s.arb a [0] ≠ none ∧ (s.arb = .send → ∀ w ∈ s.buf, ¬ Claims.reserved s.cfg w)
  | _ => True

/-! ## Encoding -/

/-- Words written out from 30_encoding.md's formats, and function bytes, decode to their rows.  That RX_ENDFRAME is 0xA000, on
which the two words of nibble A rest, is the spec's general knowledge (decision D4, G1; assumption log entry 11, PRESUMED). -/
def Obligations.TableWordsDecodeToTheirRows : Prop :=
  decodeWord Config.ilc 0x13CE = .write 1 0xE7 0 ∧ decodeWord Config.ilc 0x1FFF = .write 7 0xFF 1 ∧
  decodeWord Config.ilc 0x20DA = .frameend ∧ decodeWord Config.ilc 0x20DB = .badSentinel2 0x0DB ∧
  decodeWord Config.ilc 0x414F = .delay 335 ∧ decodeWord Config.ilc 0x5006 = .ldelay 6 ∧
  decodeWord Config.ilc 0x6708 = .waitrx 1800 ∧ decodeWord Config.ilc 0x9065 = .lwaitrx 101 ∧
  decodeWord Config.ilc 0xA000 = .rxend ∧ decodeWord Config.ilc 0xA001 = .badSentinelA 1 ∧
  decodeWord Config.ilc 0xB123 = .rxts 0x123 ∧ decodeWord Config.ilc 0x0000 = .reserved0 0 ∧
  decodeWord { Config.ilc with dialect := .plain } 0x0041 = .byte 0x41 ∧
  decodeFrame 8 0x12 = .ok (.serverStatus 8) ∧ decodeFrame 7 0xC1 = .ok (.changeModeError 7)

/-- Every well-formed instruction, of either level and under every configuration, is read back from its own words, whatever
follows them: no bit of an encoding is dropped. -/
def Obligations.DecodeOfEncodeIsTheInstruction : Prop :=
  ∀ (c : Config) (i : Instr) (rest : List Word), wellFormed c i = true →
    decode c i.level (encode c i ++ rest) = .ok (i, rest)

/-- Every word decodes to one well-formed instruction word, whose encoding is that word.  A function byte that is a row of the table
names a frame instruction whose header is the address and that byte; every other byte is rejected by name. -/
def Obligations.EncodeOfDecodeIsTheWord : Prop :=
  (∀ (c : Config) (w : Word),
    (decodeWord c w).level = .word ∧ wellFormed c (decodeWord c w) = true ∧ encode c (decodeWord c w) = [w]) ∧
  (∀ (c : Config) (a f : Byte),
    (∀ i, decodeFrame a f = .ok i → i.level = .frame ∧ encode c i = c.encHeader a f) ∧
    (∀ e, decodeFrame a f = .error e → e = .notInTable f ∧
      f ∉ ([17, 18, 65, 72, 107, 67, 81, 110, 119, 145, 146, 193, 200, 235, 195, 209, 238, 247] : List Byte)))

/-- R31: in the ILC dialect a byte's word is 0x1200 with the byte in bits 8:1, and a word's byte is its bits 8:1; the end-of-frame,
wait-for-Rx and Rx-end-frame writes emit TX_FRAMEEND, the TX_WAIT_RX / TX_WAIT_LONG_RX words and RX_ENDFRAME. -/
def Obligations.IlcDialectEncoding : Prop :=
  (∀ b : Byte, Config.ilc.encByte b = 0x1200 ||| (b.setWidth 16 <<< 1)) ∧
  (∀ w : Word, Config.ilc.decByte w = w.extractLsb' 1 8) ∧
  (∀ b : Byte, Config.ilc.decByte (Config.ilc.encByte b) = b ∧ nibble (Config.ilc.encByte b) = 0x1) ∧
  (∀ s : State, s.cfg = Config.ilc →
    writeEndOfFrame s = emit 0x20DA s ∧ writeRxEndFrame s = emit Config.ilc.rxEndframe s ∧
    (∀ us : Micros, us.toNat ≤ 0xFFF → writeWaitForRx us s = emit (mkWord 0x6 (BitVec.ofNat 12 us.toNat)) s) ∧
    (∀ us : Micros, 0xFFF < us.toNat →
      writeWaitForRx us s = emit (mkWord 0x9 (BitVec.ofNat 12 (longMs s.cfg.longRounding us.toNat))) s))

/-! ## Instruction words under the read operations -/

/-- `next()` steps over one word of any kind and changes the cursor only; `peek()` returns the instruction's own word and
changes nothing (43_rx_read.md R134, R135; that neither `crc` nor the record changes is the spec's decision D16). -/
def Obligations.NextAndPeekTakeAnyWord : Prop :=
  ∀ (i : Instr) (w : Word) (s : State), i.level = .word → encode s.cfg i = [w] →
    (s.wordOp = some .next →
      exec i s = .next { s with cur := s.cur + 1, result := some (.ok .none), ops := s.ops.tail }) ∧
    (s.wordOp = some .peek → exec i s = .next { s with result := some (.ok (.word w)), ops := s.ops.tail })

/-- A byte read takes the byte of a word of ANY kind (43_rx_read.md R125, R126; that the command bits are not checked is the
spec's decision D30), adds it to the CRC, and records it while recording. -/
def Obligations.ByteReadTakesAnyWord : Prop :=
  ∀ (i : Instr) (w : Word) (s : State) (b : Byte), i.level = .word → encode s.cfg i = [w] →
    (s.cfg.dialect = .ilc → b = w.extractLsb' 1 8) → (s.cfg.dialect = .plain → b = w.extractLsb' 0 8) →
    (s.wordOp = some .readU8 →
      exec i s = .next { s with
        cur := s.cur + 1, crc := crcByte s.crc b
        record := if s.recording then s.record ++ [b] else s.record
        result := some (.ok (.uint b.toNat)), ops := s.ops.tail }) ∧
    (s.wordOp = some .readS8 →
      exec i s = .next { s with
        cur := s.cur + 1, crc := crcByte s.crc b
        record := if s.recording then s.record ++ [b] else s.record
        result := some (.ok (.sint b.toInt)), ops := s.ops.tail })

/-- `read_delay()`: microseconds of DELAY, a thousand times the milliseconds of LONG_DELAY, a framing error that leaves the
cursor at any other word (43_rx_read.md R136; the unmoved cursor is the spec's decision D17). -/
def Obligations.ReadDelayOnEveryWord : Prop :=
  ∀ (s : State), s.wordOp = some .readDelay →
    (∀ us : Payload, exec (.delay us) s =
      .next { s with cur := s.cur + 1, result := some (.ok (.uint us.toNat)), ops := s.ops.tail }) ∧
    (∀ ms : Payload, exec (.ldelay ms) s =
      .next { s with cur := s.cur + 1, result := some (.ok (.uint (ms.toNat * 1000))), ops := s.ops.tail }) ∧
    (∀ (i : Instr) (w : Word), i.level = .word → encode s.cfg i = [w] → nibble w ≠ 0x4 → nibble w ≠ 0x5 →
      exec i s = .next { s with result := some (.err (.framingError w s.cur)), ops := s.ops.tail })

/-- `read_wait_for_rx()` in every dialect: microseconds of a word of the short wait command, a thousand times the milliseconds of
one of the long command, a framing error that leaves the cursor at any other word; with the ILC commands 0x6 and 0x9 these
are WAITRX and LWAITRX (43_rx_read.md R137; the unmoved cursor is decision D17). -/
def Obligations.ReadWaitOnEveryWord : Prop :=
  ∀ (s : State), s.wordOp = some .readWaitForRx →
    (∀ (i : Instr) (w : Word), i.level = .word → encode s.cfg i = [w] →
      (nibble w = s.cfg.waitShortCmd → exec i s =
        .next { s with cur := s.cur + 1, result := some (.ok (.uint (payload w).toNat)), ops := s.ops.tail }) ∧
      (nibble w ≠ s.cfg.waitShortCmd → nibble w = s.cfg.waitLongCmd → exec i s =
        .next { s with cur := s.cur + 1, result := some (.ok (.uint ((payload w).toNat * 1000))), ops := s.ops.tail }) ∧
      (nibble w ≠ s.cfg.waitShortCmd → nibble w ≠ s.cfg.waitLongCmd → exec i s =
        .next { s with result := some (.err (.framingError w s.cur)), ops := s.ops.tail })) ∧
    (s.cfg.waitShortCmd = 0x6 → s.cfg.waitLongCmd = 0x9 →
      (∀ us : Payload, exec (.waitrx us) s =
        .next { s with cur := s.cur + 1, result := some (.ok (.uint us.toNat)), ops := s.ops.tail }) ∧
      (∀ ms : Payload, exec (.lwaitrx ms) s =
        .next { s with cur := s.cur + 1, result := some (.ok (.uint (ms.toNat * 1000))), ops := s.ops.tail }))

/-- The two sentinel tests.  `read_end_of_frame()` accepts TX_FRAMEEND and resets the CRC; on every other well-formed word it is a
framing error that changes nothing.  `end_of_frame()` is true on RX_ENDFRAME and false on every other well-formed word,
TX_FRAMEEND included when the two sentinels differ; it changes nothing (43_rx_read.md R138, R141; the unchanged state
after the error is the spec's decision D17). -/
def Obligations.SentinelTestsOnEveryWord : Prop :=
  ∀ s : State,
    (s.wordOp = some .readEndOfFrame →
      exec .frameend s =
        .next { s with cur := s.cur + 1, crc := 0xFFFF, result := some (.ok .none), ops := s.ops.tail } ∧
      (∀ (i : Instr) (w : Word), i.level = .word → i ≠ .frameend → wellFormed s.cfg i = true → encode s.cfg i = [w] →
        exec i s = .next { s with result := some (.err (.framingError w s.cur)), ops := s.ops.tail })) ∧
    (s.wordOp = some .endOfFrame →
      exec .rxend s = .next { s with result := some (.ok (.bool true)), ops := s.ops.tail } ∧
      (∀ i : Instr, i.level = .word → i ≠ .rxend → wellFormed s.cfg i = true → s.cfg.rxEndframe ≠ s.cfg.txFrameend →
        exec i s = .next { s with result := some (.ok (.bool false)), ops := s.ops.tail }))

/-- `decode_word` of every word is the class of 30_encoding.md R73, without a side effect (that the host is offered it is the
spec's decision D5). -/
def Obligations.ClassifyIsDecodeWord : Prop :=
  ∀ (s : State) (w : Word) (rest : List HostOp), s.ops = .decodeWord w :: rest →
    step s = .next { s with
      result := some (.ok (.wordClass (Claims.specClass s.cfg w))), events := [], ops := rest }

/-- At the end of the buffer every one-word read raises EndOfBuffer with the cursor, but `end_of_frame`, which is false; nothing
of the block changes (43_rx_read.md R125, R134 to R138, R141; for `peek`, `next` and `end_of_frame` decision D18; that
`decode_word` asked of the word at the cursor raises there is this model's choice, assumption log entry 27).  `check_crc`
with no word left, or one, raises EndOfBuffer at the end, recording off and the accumulator not reset (R139; decision D15). -/
def Obligations.WordReadsAtTheEndOfTheBuffer : Prop :=
  (∀ (s : State) (o : WordOp) (rest : List HostOp), s.ops = .word o :: rest → s.buf.length ≤ s.cur →
    step s = .next { s with
      result := some (if o = .endOfFrame then .ok (.bool false) else .err (.endOfBuffer s.cur))
      events := [], ops := rest }) ∧
  (∀ (s : State) (rest : List HostOp), s.ops = .checkCrc :: rest →
    (s.buf.length ≤ s.cur → step s = .next { s with
      recording := false, result := some (.err (.endOfBuffer s.cur)), events := [], ops := rest }) ∧
    (s.buf.length = s.cur + 1 → step s = .next { s with
      cur := s.cur + 1, recording := false, result := some (.err (.endOfBuffer (s.cur + 1))), events := [], ops := rest }))

/-! ## The step -/

/-- A step runs the decoded instruction: with a one-word read issued, exec of the word at the cursor; with a frame iteration
issued, exec of the frame instruction of the header there, the header's two bytes consumed and added to the CRC and not
recorded; with no operation issued, nothing happens (00_scope.md R8, 44_dispatch.md R155; the last clause is this model's
choice, assumption log entry 1, and the single iteration its entry 2).  A function byte that is no row of the table is
treated as the registry says; a chunk that ends after the address byte raises EndOfBuffer there, and at its end there is no
frame; under the policy SKIP a delimiter at a frame's start is stepped over and the CRC left alone (R153, R155, R161; the
policy is decision D29). -/
def Obligations.StepRunsTheDecodedInstruction : Prop :=
  ∀ (s : State),
    (s.ops = [] → step s = .next s) ∧
    (∀ (o : WordOp) (rest : List HostOp) (w : Word), s.ops = .word o :: rest → s.buf[s.cur]? = some w →
      step s = exec (decodeWord s.cfg w) { s with result := none, events := [] }) ∧
    (∀ (rest : List HostOp) (wa wf : Word) (i : Instr), s.ops = .frame :: rest →
      s.buf[s.cur]? = some wa → s.buf[s.cur + 1]? = some wf →
      (s.cfg.rxDelimiterPolicy = .keep ∨ wa ≠ s.cfg.rxEndframe) →
      decodeFrame (s.cfg.decByte wa) (s.cfg.decByte wf) = .ok i →
      step s = exec i { s with
        result := none, events := [], cur := s.cur + 2
        crc := crcByte (crcByte s.crc (s.cfg.decByte wa)) (s.cfg.decByte wf) }) ∧
    (∀ (rest : List HostOp) (wa wf : Word), s.ops = .frame :: rest →
      s.buf[s.cur]? = some wa → s.buf[s.cur + 1]? = some wf →
      (s.cfg.rxDelimiterPolicy = .keep ∨ wa ≠ s.cfg.rxEndframe) →
      (∀ i, decodeFrame (s.cfg.decByte wa) (s.cfg.decByte wf) ≠ .ok i) →
      step s = finish (frameBody (s.cfg.decByte wa) (s.cfg.decByte wf) { s with
        result := none, events := [], cur := s.cur + 2
        crc := crcByte (crcByte s.crc (s.cfg.decByte wa)) (s.cfg.decByte wf) }).noValue) ∧
    (∀ (rest : List HostOp), s.ops = .frame :: rest →
      (s.buf.length ≤ s.cur → step s = .next { s with result := some (.ok .none), events := [], ops := rest }) ∧
      (∀ wa, s.buf[s.cur]? = some wa → s.cfg.rxDelimiterPolicy = .skip → wa = s.cfg.rxEndframe →
        step s = .next { s with cur := s.cur + 1, result := some (.ok .none), events := [], ops := rest }) ∧
      (∀ wa, s.buf[s.cur]? = some wa → s.buf.length = s.cur + 1 →
        (s.cfg.rxDelimiterPolicy = .keep ∨ wa ≠ s.cfg.rxEndframe) →
        step s = .next { s with
          cur := s.cur + 1, crc := crcByte s.crc (s.cfg.decByte wa)
          result := some (.err (.endOfBuffer (s.cur + 1))), events := [], ops := rest }))

/-- A table row's bits placed for the next step are fetched and run by it as the instruction the table's decoder reads, from
every state (assumption log entries 5 and 6: how a program comes to run). -/
def Obligations.FetchedTableWordRuns : Prop :=
  ∀ (s : State) (w : Nat) (i : Instr),
    (w < 65536 → decodeTableWord 16 w = some i →
      step (s.withFetchWord 16 w) = exec i (s.withFetchWord 16 w).begin) ∧
    (w < 256 → decodeTableWord 8 w = some i →
      ∃ t, step (s.withFetchWord 8 w) = exec i t ∧ t.cur = (s.withFetchWord 8 w).cur + 2 ∧ t.buf = (s.withFetchWord 8 w).buf ∧
        t.cq = s.cq)

/-! ## Frames: the function codes -/

/-- SERVER_STATUS: a Server-Status reply that pairs and checks sets the mode of its address, stores the fingerprint, and is
surfaced if it changed (44_dispatch.md R158; the payload layout is the spec's default [general knowledge], 46_ilc_layer.md
R193, its decision D34, and the mode's store after the CRC its decision D35). -/
def Obligations.ServerStatusReplyDecodes : Prop :=
  ∀ (a m s1 s0 f1 f0 : Byte) (s : State) (q : List (Byte × Byte)),
    Claims.registered s.cfg 18 (decoder18 .mode) → s.cq = (a, 18) :: q → Claims.replyAhead s [m, s1, s0, f1, f0] →
    exec (.serverStatus a) s = .next { s with
      cur := s.cur + 7, crc := 0xFFFF, recording := false, record := [m, s1, s0, f1, f0], cq := q
      cache := Table.set s.cache (256 * a.toNat + 18) [m, s1, s0, f1, f0]
      lastMode := Table.set s.lastMode a.toNat m
      events := s.events ++
        (if s.cached a 18 = some [m, s1, s0, f1, f0] ∧ (18 : Byte) ∉ s.cfg.alwaysTrigger then []
         else [.decoded 18 a [(.mode, .uint m.toNat), (.status, .uint (256 * s1.toNat + s0.toNat)),
           (.faults, .uint (256 * f1.toNat + f0.toNat))]])
      result := some (.ok .none), ops := s.ops.tail }

/-- SERVER_STATUS whose CRC bytes differ: the CRC error carries both values; the pair is popped, recording is off, the CRC keeps
the snapshot, and neither the mode nor the fingerprint is touched (43_rx_read.md R139, 60_exceptions.md R224; that the
state is exactly this is the spec's reading of its pseudocode, decision D32). -/
def Obligations.ServerStatusCrcErrorLeavesTables : Prop :=
  ∀ (a m s1 s0 f1 f0 lo hi : Byte) (s : State) (q : List (Byte × Byte)),
    Claims.registered s.cfg 18 (decoder18 .mode) → s.cq = (a, 18) :: q →
    Claims.ahead s [m, s1, s0, f1, f0, lo, hi] →
    crcOfBytes lo hi ≠ crcBytes s.crc [m, s1, s0, f1, f0] →
    exec (.serverStatus a) s = .next { s with
      cur := s.cur + 7, crc := crcBytes s.crc [m, s1, s0, f1, f0], recording := false
      record := [m, s1, s0, f1, f0], cq := q
      result := some (.err (.crcError (crcBytes s.crc [m, s1, s0, f1, f0]) (crcOfBytes lo hi))), ops := s.ops.tail }

/-- CHANGE_MODE: the mode of the address becomes the low byte of the reply's 16-bit mode (44_dispatch.md R158; layout and store
as for SERVER_STATUS, decisions D34 and D35). -/
def Obligations.ChangeModeReplyDecodes : Prop :=
  ∀ (a m1 m0 : Byte) (s : State) (q : List (Byte × Byte)),
    Claims.registered s.cfg 65 (decoder65 .mode) → s.cq = (a, 65) :: q → Claims.replyAhead s [m1, m0] →
    exec (.changeMode a) s = .next { s with
      cur := s.cur + 4, crc := 0xFFFF, recording := false, record := [m1, m0], cq := q
      cache := Table.set s.cache (256 * a.toNat + 65) [m1, m0]
      lastMode := Table.set s.lastMode a.toNat m0
      events := s.events ++
        (if s.cached a 65 = some [m1, m0] ∧ (65 : Byte) ∉ s.cfg.alwaysTrigger then []
         else [.decoded 65 a [(.mode, .uint (256 * m1.toNat + m0.toNat))]])
      result := some (.ok .none), ops := s.ops.tail }

/-- SERVER_ID: the firmware name is the `length - 12` bytes before the CRC (44_dispatch.md R158; layout the spec's default,
46_ilc_layer.md R193, decision D34).  With a length below 12 there is no name to read: EndOfBuffer at the cursor, after
the thirteen fixed bytes and before any byte of the name (R152; the spec's decision D52, and the offset named is this
model's reading, assumption log entry 9). -/
def Obligations.ServerIdReplyDecodes : Prop :=
  ∀ (a l u5 u4 u3 u2 u1 u0 t n so no ma mi : Byte) (s : State) (q : List (Byte × Byte)) (head : List Byte),
    head = [l, u5, u4, u3, u2, u1, u0, t, n, so, no, ma, mi] →
    Claims.registered s.cfg 17 decoder17 → s.cq = (a, 17) :: q →
    (∀ name : List Byte, 12 ≤ l.toNat → name.length = l.toNat - 12 → Claims.replyAhead s (head ++ name) →
      exec (.serverId a) s = .next { s with
        cur := s.cur + (15 + name.length), crc := 0xFFFF, recording := false, record := head ++ name, cq := q
        cache := Table.set s.cache (256 * a.toNat + 17) (head ++ name)
        events := s.events ++
          (if s.cached a 17 = some (head ++ name) ∧ (17 : Byte) ∉ s.cfg.alwaysTrigger then []
           else [.decoded 17 a [(.length, .uint l.toNat),
             (.uniqueId, .uint (u5.toNat * 2 ^ 40 + u4.toNat * 2 ^ 32 + u3.toNat * 2 ^ 24 + u2.toNat * 2 ^ 16 +
               u1.toNat * 2 ^ 8 + u0.toNat)),
             (.ilcAppType, .uint t.toNat), (.networkNodeType, .uint n.toNat), (.ilcSelectedOptions, .uint so.toNat),
             (.networkNodeOptions, .uint no.toNat), (.majorRev, .uint ma.toNat), (.minorRev, .uint mi.toNat),
             (.firmwareName, .bytes name)]])
        result := some (.ok .none), ops := s.ops.tail }) ∧
    (l.toNat < 12 → Claims.ahead s head →
      exec (.serverId a) s = .next { s with
        cur := s.cur + 13, crc := crcBytes s.crc head, recording := true, record := head, cq := q
        result := some (.err (.endOfBuffer (s.cur + 13))), ops := s.ops.tail })

/-- SET_TEMP_ADDRESS, RESET_SERVER and SET_OFFSET_AND_SENSITIVITY: replies that are always surfaced and never touch the two tables
(44_dispatch.md R158; the layouts are the spec's defaults, 46_ilc_layer.md R193 and R197, decisions D34 and D48).  Their
decoders do not start a record; a record that an earlier, unfinished frame left running takes the payload bytes. -/
def Obligations.PlainRepliesDecode : Prop :=
  ∀ (a b : Byte) (s : State) (q : List (Byte × Byte)),
    (Claims.registered s.cfg 72 decoder72 → s.cq = (a, 72) :: q → Claims.replyAhead s [b] →
      exec (.setTempAddress a) s = .next { s with
        cur := s.cur + 3, crc := 0xFFFF, recording := false, record := Claims.recorded s [b], cq := q
        events := s.events ++ [.decoded 72 a [(.newAddress, .uint b.toNat)]]
        result := some (.ok .none), ops := s.ops.tail }) ∧
    (Claims.registered s.cfg 107 decoder107 → s.cq = (a, 107) :: q → Claims.replyAhead s [] →
      exec (.resetServer a) s = .next { s with
        cur := s.cur + 2, crc := 0xFFFF, recording := false, cq := q, events := s.events ++ [.decoded 107 a []]
        result := some (.ok .none), ops := s.ops.tail }) ∧
    (Claims.registered s.cfg 81 decoder81 → s.cq = (a, 81) :: q → Claims.replyAhead s [] →
      exec (.setOffsetAndSensitivity a) s = .next { s with
        cur := s.cur + 2, crc := 0xFFFF, recording := false, cq := q, events := s.events ++ [.decoded 81 a []]
        result := some (.ok .none), ops := s.ops.tail })

/-- HARDPOINT_FORCE_STATUS: a status byte, a signed encoder position and a float pattern (44_dispatch.md R158; layout the spec's
default, 46_ilc_layer.md R200). -/
def Obligations.HardpointReplyDecodes : Prop :=
  ∀ (a st : Byte) (enc force : BitVec 32) (s : State) (q : List (Byte × Byte)),
    Claims.registered s.cfg 67 decoder67 → s.cq = (a, 67) :: q →
    Claims.replyAhead s (st :: (Claims.be32 enc ++ Claims.be32 force)) →
    exec (.hardpointForceStatus a) s = .next { s with
      cur := s.cur + 11, crc := 0xFFFF, recording := false, cq := q
      record := Claims.recorded s (st :: (Claims.be32 enc ++ Claims.be32 force))
      events := s.events ++ [.decoded 67 a
        [(.status, .uint st.toNat), (.encoderPosition, .sint enc.toInt), (.loadCellForce, .f32 force)]]
      result := some (.ok .none), ops := s.ops.tail }

/-- MEZZANINE_PRESSURE (46_ilc_layer.md R199): "the wire order is push1, pull1, pull2, push2 but the callback reorders to push1,
pull1, push2, pull2", every float pattern unchanged. -/
def Obligations.MezzaninePressureReorders : Prop :=
  ∀ (a : Byte) (push1 pull1 pull2 push2 : BitVec 32) (s : State) (q : List (Byte × Byte)),
    Claims.registered s.cfg 119 decoder119 → s.cq = (a, 119) :: q →
    Claims.replyAhead s (Claims.be32 push1 ++ Claims.be32 pull1 ++ Claims.be32 pull2 ++ Claims.be32 push2) →
    exec (.mezzaninePressure a) s = .next { s with
      cur := s.cur + 18, crc := 0xFFFF, recording := false, cq := q
      record := Claims.recorded s (Claims.be32 push1 ++ Claims.be32 pull1 ++ Claims.be32 pull2 ++ Claims.be32 push2)
      events := s.events ++ [.mezzaninePressure a push1 pull1 push2 pull2]
      result := some (.ok .none), ops := s.ops.tail }

/-- REPORT_CALIBRATION_DATA (46_ilc_layer.md R198): 24 floats in six groups of four, group-major, delivered in one event of six
four-float arrays in the order main-ADCK, main-offset, main-sensitivity, backup-ADCK, backup-offset, backup-sensitivity. -/
def Obligations.CalibrationReportIsGroupMajor : Prop :=
  ∀ (a : Byte) (g : CalGroup → Fin 4 → BitVec 32) (s : State) (q : List (Byte × Byte)),
    Claims.registered s.cfg 110 decoder110 → s.cq = (a, 110) :: q → Claims.replyAhead s (Claims.calibrationBytes g) →
    exec (.reportCalibrationData a) s = .next { s with
      cur := s.cur + 98, crc := 0xFFFF, recording := false, cq := q
      record := Claims.recorded s (Claims.calibrationBytes g)
      events := s.events ++ [.calibrationData a (Claims.group g .mainADCK) (Claims.group g .mainOffset)
        (Claims.group g .mainSensitivity) (Claims.group g .backupADCK) (Claims.group g .backupOffset)
        (Claims.group g .backupSensitivity)]
      result := some (.ok .none), ops := s.ops.tail }

/-- The nine error codes: an error reply that pairs with its normal code and checks is delivered to its handler, and without a
handler raises the ModBus exception with the received error code (44_dispatch.md R156, R157, R159; the code reported is the
spec's decision D14, the codes of 67, 81, 110 and 119 its defaults, R201). -/
def Obligations.ErrorRepliesReachHandlerOrRaise : Prop :=
  ∀ (a code : Byte) (i : Instr) (f n : Byte) (e : Entry) (s : State) (q : List (Byte × Byte)),
    (i, f, n) ∈ Claims.errorReplies a → s.cfg.errorEntry f = some e → e.normal = n → s.cfg.normalEntry f = none →
    s.cq = (a, n) :: q → Claims.replyAhead s [code] →
    exec i s = .next { s with
      cur := s.cur + 3, crc := 0xFFFF, recording := false, record := Claims.recorded s [code], cq := q
      events := s.events ++ (match e.handler with | some h => [.errorReply h a code] | none => [])
      result := some (match e.handler with | some _ => .ok .none | none => .err (.exception a f code))
      ops := s.ops.tail }

/-- The pairing check, for every function code of the table: with nothing queued, or with another pair at the head, the reply is an
UnmatchedFunction error naming the received pair and the expected one; a mismatching head is gone (44_dispatch.md R157; the
pop before the comparison is the spec's decision D11, the empty queue its D12). -/
def Obligations.UnpairedReplyIsUnmatched : Prop :=
  ∀ (a f : Byte) (i : Instr) (s : State), decodeFrame a f = .ok i →
    (s.cq = [] → exec i s = .next { s with
      result := some (.err (.unmatchedFunction a f none)), ops := s.ops.tail }) ∧
    (∀ ea ef q, s.cq = (ea, ef) :: q →
      (ea, ef) ≠ (a, match s.cfg.errorEntry f with | some e => e.normal | none => f) →
      exec i s = .next { s with
        cq := q, result := some (.err (.unmatchedFunction a f (some (ea, ef)))), ops := s.ops.tail })

/-- A function byte that is neither normal nor an error code, its pair at the head of the queue, is an UnknownResponse; the pair is
popped; the cursor afterwards is ANY index of the buffer, of which nothing is said (44_dispatch.md R160, 60_exceptions.md
R224; assumption log entry 3). -/
def Obligations.UnknownFunctionStopsDispatch : Prop :=
  ∀ (a f : Byte) (s : State) (q : List (Byte × Byte)),
    s.cfg.normalEntry f = none → s.cfg.errorEntry f = none → s.cq = (a, f) :: q →
    ∃ cur free, cur ≤ s.buf.length ∧
      frameBody a f s = .err (.unknownResponse a f) { s with cq := q, cur := cur, free := free }

/-- The frame of the function codes: whatever the registry holds, executing one leaves the configuration, every word of the buffer,
the broadcast counter, the driver and the arbiter as they were, takes exactly the head of the commanded queue, and
touches the mode table and the fingerprints of no other address. -/
def Obligations.FrameInstructionsFrame : Prop :=
  ∀ (a f : Byte) (i : Instr) (s t : State), decodeFrame a f = .ok i → exec i s = .next t →
    t.cfg = s.cfg ∧ (∀ j, Memory.read t.buf j = Memory.read s.buf j) ∧ t.bcast = s.bcast ∧
    t.registrySealed = s.registrySealed ∧ t.driver = s.driver ∧ t.arb = s.arb ∧ t.ops = s.ops.tail ∧
    t.cq = s.cq.tail ∧ s.events <+: t.events ∧
    (∀ a', a' ≠ a → t.modeOf a' = s.modeOf a') ∧
    (∀ a' f', (a', f') ≠ (a, f) → t.cached a' f' = s.cached a' f')

/-! ## The CRC unit -/

/-- R106: `CrcAdd(b)` XORs the byte in and runs the shift-and-XOR iteration eight times; it writes `crc` and nothing else. -/
def Obligations.CrcAddIsEightIterations : Prop :=
  ∀ (c : Word) (b : Byte) (s : State),
    (crcByte c b).toNat = Claims.crcIteration^[8] (c.toNat ^^^ b.toNat) ∧
    s.crcAdd b = { s with crc := crcByte s.crc b } ∧
    crcByte 0xFFFF 0x00 = 0x40BF ∧ crcByte 0xFFFF 0x01 = 0x807E

/-- What makes the CRC a check: added low byte first to the accumulator that produced them, a frame's CRC bytes leave zero, and two
messages of one length that differ in exactly one byte have different CRCs (41_crc.md R109's further consequence, which
the spec derives, and a consequence of R106). -/
def Obligations.CrcChecksItselfAndSeesOneWrongByte : Prop :=
  (∀ c : Word, crcByte (crcByte c (crcLow c)) (crcHigh c) = 0) ∧
  (∀ (c : Word) (before after : List Byte) (b b' : Byte), b ≠ b' →
    crcBytes c (before ++ b :: after) ≠ crcBytes c (before ++ b' :: after))

/-! ## The write path -/

/-- R111 to R114: an integer is written as the bytes of its bit pattern, most significant first, each by `WriteByte`; a signed one as
its two's complement pattern. -/
def Obligations.IntegerWritesAreBigEndian : Prop :=
  ∀ s : State,
    (∀ v : BitVec 8, writeParam (.u8 v) s = writeByte v s ∧ writeParam (.s8 v) s = writeByte v s) ∧
    (∀ v : BitVec 16, writeParam (.u16 v) s = writeBytes [v.extractLsb' 8 8, v.extractLsb' 0 8] s ∧
      writeParam (.s16 v) s = writeParam (.u16 v) s) ∧
    (∀ v : BitVec 32, writeParam (.u32 v) s = writeBytes (Claims.be32 v) s ∧
      writeParam (.s32 v) s = writeParam (.u32 v) s) ∧
    (∀ v : BitVec 64, writeParam (.u64 v) s =
        writeBytes (Claims.be32 (v.extractLsb' 32 32) ++ Claims.be32 (v.extractLsb' 0 32)) s ∧
      writeParam (.s64 v) s = writeParam (.u64 v) s) ∧
    (∀ (b : Byte) (bs : List Byte), writeBytes (b :: bs) s = (writeByte b s).andThen fun _ t => writeBytes bs t)

/-- A float is written as its bit pattern, every pattern unchanged, and read back as the same pattern; `write_i24` writes the low 24 bits
of any integer, three bytes, most significant first (42_tx_write.md R115, R116; that NaN patterns are not touched is the
spec's decision D38, that an integer out of range is no error its D39). -/
def Obligations.FloatAndI24WritesAreBitPatterns : Prop :=
  ∀ s : State,
    (∀ f : BitVec 32, writeParam (.f32 f) s = writeBytes (Claims.be32 f) s) ∧
    (∀ (f : BitVec 32) (t : State), readBytes 4 s = .ok (Claims.be32 f) t → readWide .f32 s = .ok (.f32 f) t) ∧
    (∀ v : Int, writeParam (.i24 v) s = writeBytes (Claims.be32 (BitVec.ofInt 32 v)).tail s)

/-- Bytes written: with room for them, their words at the end of the buffer in order, their CRC in the accumulator, and nothing
else; a write that meets the bound keeps the words that fit, and the CRC has taken those bytes and the one that did not fit.
`write_crc` with room appends two words and resets the accumulator; without, it keeps the word that fits and does not reset
it (20_memory.md R47, 42_tx_write.md R110, R117, R123, 60_exceptions.md R218, R224; the unmoved cursor is the spec's decision
D54, the bound and the partial effect its D8, D32 and D40). -/
def Obligations.WrittenBytesAppendUpToTheBound : Prop :=
  ∀ (bs : List Byte) (s : State),
    (Claims.room s bs.length →
      writeBytes bs s = .ok () { s with buf := s.buf ++ bs.map s.cfg.encByte, crc := crcBytes s.crc bs }) ∧
    (∀ n : Nat, s.cfg.bufWords = some n → s.buf.length ≤ n → n < s.buf.length + bs.length →
      writeBytes bs s = .err (.bufferFull n) { s with
        buf := s.buf ++ (bs.take (n - s.buf.length)).map s.cfg.encByte
        crc := crcBytes s.crc (bs.take (n - s.buf.length + 1)) }) ∧
    (Claims.room s 2 → writeCrc s = .ok () { s with
      buf := s.buf ++ [s.cfg.encByte (crcLow s.crc), s.cfg.encByte (crcHigh s.crc)], crc := 0xFFFF }) ∧
    (s.cfg.bufWords = some s.buf.length → writeCrc s = .err (.bufferFull s.buf.length) s) ∧
    (s.cfg.bufWords = some (s.buf.length + 1) → writeCrc s = .err (.bufferFull (s.buf.length + 1)) { s with
      buf := s.buf ++ [s.cfg.encByte (crcLow s.crc)] })

/-- R50: the CRC goes out low byte first and is read back low byte first. -/
def Obligations.CrcIsLittleEndianInTheFrame : Prop :=
  (∀ s : State, Claims.unbounded s → writeCrc s = .ok () { s with
    buf := s.buf ++ [s.cfg.encByte (s.crc.extractLsb' 0 8), s.cfg.encByte (s.crc.extractLsb' 8 8)], crc := 0xFFFF }) ∧
  (∀ (lo hi : Byte) (s : State), Claims.ahead s [lo, hi] →
    checkCrc s =
      if lo.setWidth 16 ||| (hi.setWidth 16 <<< 8) = s.crc then
        .ok () { s with cur := s.cur + 2, recording := false, crc := 0xFFFF }
      else .err (.crcError s.crc (lo.setWidth 16 ||| (hi.setWidth 16 <<< 8))) { s with
        cur := s.cur + 2, recording := false })

/-- TSC's property 4, for delays and for waits: a short time is read back as it was written; a long one as a whole number of
milliseconds not below it and less than 2000 microseconds above it, up to the clamp at 4,095,000; and the tighter bounds
42_tx_write.md R120 derives for each rounding (43_rx_read.md R136, 42_tx_write.md R118 to R120; the rounding is decision
D6). -/
def Obligations.TimeWordsReadBack : Prop :=
  (∀ (r : Rounding) (short long : Nibble) (us : Micros), short ≠ long →
    (us.toNat ≤ 4095 → timeOf short long (timeWord r short long us) = some us.toNat) ∧
    (4096 ≤ us.toNat → ∃ ms, timeOf short long (timeWord r short long us) = some (ms * 1000) ∧ ms ≤ 4095 ∧
      (us.toNat ≤ 4095000 → us.toNat ≤ ms * 1000 ∧ ms * 1000 < us.toNat + 2000) ∧
      (4095000 ≤ us.toNat → ms = 4095))) ∧
  (∀ us : Nat, 4096 ≤ us → us ≤ 4094000 →
    (us + 1000 ≤ longMs .ceilPlusOne us * 1000 ∧ longMs .ceilPlusOne us * 1000 < us + 2000) ∧
    (us + 1 ≤ longMs .truncPlusOne us * 1000 ∧ longMs .truncPlusOne us * 1000 ≤ us + 1000))

/-- The control-word writes append one word and leave the CRC and the cursor, or raise BufferFull and change nothing (42_tx_write.md
R118, R119, R121, R122). -/
def Obligations.ControlWordWritesAppendOneWord : Prop :=
  ∀ (s : State) (rest : List HostOp) (o : HostOp) (w : Word), s.ops = o :: rest →
    ((∃ us, o = .writeDelay us ∧ w = timeWord s.cfg.longRounding 0x4 0x5 us) ∨
      (∃ us, o = .writeWaitForRx us ∧ w = timeWord s.cfg.longRounding s.cfg.waitShortCmd s.cfg.waitLongCmd us) ∨
      (o = .writeEndOfFrame ∧ w = s.cfg.txFrameend) ∨ (o = .writeRxEndFrame ∧ w = s.cfg.rxEndframe)) →
    step s =
      if s.cfg.bufWords = some s.buf.length then
        .next { s with result := some (.err (.bufferFull s.buf.length)), events := [], ops := rest }
      else .next { s with buf := s.buf ++ [w], result := some (.ok .none), events := [], ops := rest }

/-- Every operation of the write path and every request builder only appends to the buffer: no word already there changes, the cursor
does not move, and the recorder, the tables and the broadcast counter are left alone (42_tx_write.md R123; decision D54). -/
def Obligations.WritesOnlyAppend : Prop :=
  ∀ (s t : State) (o : HostOp) (rest : List HostOp), s.ops = o :: rest → Claims.writes o = true → step s = .next t →
    s.buf <+: t.buf ∧ (∀ j, j < s.buf.length → Memory.read t.buf j = Memory.read s.buf j) ∧
    t.cur = s.cur ∧ t.cfg = s.cfg ∧ t.recording = s.recording ∧ t.record = s.record ∧ t.cache = s.cache ∧
    t.lastMode = s.lastMode ∧ t.bcast = s.bcast ∧ s.cq <+: t.cq

/-! ## The read path -/

/-- A read of 16, 32, 48 or 64 bits is that many byte reads in order, and its value the bytes most significant first, a signed
read the same bits as two's complement (43_rx_read.md R127, R128, R129, R131).  An error of a byte read is the read's own,
with the bytes before it consumed (R143, the spec's decision D40); a float is the pattern of its four bytes, whatever it is
(R130, the spec's decision D38). -/
def Obligations.ScalarReadsAreBigEndian : Prop :=
  ∀ (s t : State) (b0 b1 b2 b3 : Byte),
    (readBytes 0 s = .ok [] s ∧ ∀ n, readBytes (n + 1) s = (readByte true s).andThen fun b u => (readBytes n u).map (b :: ·)) ∧
    (∀ k e, readBytes (wideLength k) s = .err e t → readWide k s = .err e t) ∧
    (wideLength .u16 = 2 ∧ wideLength .s16 = 2 ∧ wideLength .u32 = 4 ∧ wideLength .s32 = 4 ∧ wideLength .f32 = 4 ∧
      wideLength .u48 = 6 ∧ wideLength .u64 = 8 ∧ wideLength .s64 = 8) ∧
    (readBytes 2 s = .ok [b0, b1] t →
      readWide .u16 s = .ok (.uint (b0 ++ b1 : BitVec 16).toNat) t ∧
      readWide .s16 s = .ok (.sint (b0 ++ b1 : BitVec 16).toInt) t) ∧
    (readBytes 4 s = .ok [b0, b1, b2, b3] t →
      readWide .u32 s = .ok (.uint (b0 ++ b1 ++ b2 ++ b3 : BitVec 32).toNat) t ∧
      readWide .s32 s = .ok (.sint (b0 ++ b1 ++ b2 ++ b3 : BitVec 32).toInt) t ∧
      readWide .f32 s = .ok (.f32 (b0 ++ b1 ++ b2 ++ b3)) t) ∧
    (∀ b4 b5, readBytes 6 s = .ok [b0, b1, b2, b3, b4, b5] t →
      readWide .u48 s = .ok (.uint (b0 ++ b1 ++ b2 ++ b3 ++ b4 ++ b5 : BitVec 48).toNat) t) ∧
    (∀ b4 b5 b6 b7, readBytes 8 s = .ok [b0, b1, b2, b3, b4, b5, b6, b7] t →
      readWide .u64 s = .ok (.uint (b0 ++ b1 ++ b2 ++ b3 ++ b4 ++ b5 ++ b6 ++ b7 : BitVec 64).toNat) t ∧
      readWide .s64 s = .ok (.sint (b0 ++ b1 ++ b2 ++ b3 ++ b4 ++ b5 ++ b6 ++ b7 : BitVec 64).toInt) t)

/-- The timestamp is little-endian, and it is the only little-endian payload value (20_memory.md R51): every other read of more than
one byte, of 16, 32, 48 and 64 bits, signed, unsigned or a float, takes its bytes most significant first, and so is every value
of more than one byte written (R49, R52, R54; that a float is an opaque pattern is the spec's decision D38, that a 24-bit write
cuts its integer its D39).  The CRC, little-endian as well, is no payload value (R50). -/
def Obligations.OnlyTheTimestampIsLittleEndian : Prop :=
  (∀ (s t : State) (b0 b1 b2 b3 b4 b5 b6 b7 : Byte),
    (readBytes 8 s = .ok [b0, b1, b2, b3, b4, b5, b6, b7] t →
      readWide .timestamp s = .ok (.uint (b7 ++ b6 ++ b5 ++ b4 ++ b3 ++ b2 ++ b1 ++ b0 : BitVec 64).toNat) t ∧
      readWide .u64 s = .ok (.uint (b0 ++ b1 ++ b2 ++ b3 ++ b4 ++ b5 ++ b6 ++ b7 : BitVec 64).toNat) t ∧
      readWide .s64 s = .ok (.sint (b0 ++ b1 ++ b2 ++ b3 ++ b4 ++ b5 ++ b6 ++ b7 : BitVec 64).toInt) t) ∧
    (readBytes 6 s = .ok [b0, b1, b2, b3, b4, b5] t →
      readWide .u48 s = .ok (.uint (b0 ++ b1 ++ b2 ++ b3 ++ b4 ++ b5 : BitVec 48).toNat) t) ∧
    (readBytes 4 s = .ok [b0, b1, b2, b3] t →
      readWide .u32 s = .ok (.uint (b0 ++ b1 ++ b2 ++ b3 : BitVec 32).toNat) t ∧
      readWide .s32 s = .ok (.sint (b0 ++ b1 ++ b2 ++ b3 : BitVec 32).toInt) t ∧
      readWide .f32 s = .ok (.f32 (b0 ++ b1 ++ b2 ++ b3)) t) ∧
    (readBytes 2 s = .ok [b0, b1] t →
      readWide .u16 s = .ok (.uint (b0 ++ b1 : BitVec 16).toNat) t ∧
      readWide .s16 s = .ok (.sint (b0 ++ b1 : BitVec 16).toInt) t)) ∧
  (∀ (s : State) (b0 b1 b2 b3 b4 b5 b6 b7 : Byte) (v : Int),
    writeParam (.u16 (b0 ++ b1)) s = writeBytes [b0, b1] s ∧ writeParam (.s16 (b0 ++ b1)) s = writeBytes [b0, b1] s ∧
    writeParam (.u32 (b0 ++ b1 ++ b2 ++ b3)) s = writeBytes [b0, b1, b2, b3] s ∧
    writeParam (.s32 (b0 ++ b1 ++ b2 ++ b3)) s = writeBytes [b0, b1, b2, b3] s ∧
    writeParam (.f32 (b0 ++ b1 ++ b2 ++ b3)) s = writeBytes [b0, b1, b2, b3] s ∧
    writeParam (.u64 (b0 ++ b1 ++ b2 ++ b3 ++ b4 ++ b5 ++ b6 ++ b7)) s = writeBytes [b0, b1, b2, b3, b4, b5, b6, b7] s ∧
    writeParam (.s64 (b0 ++ b1 ++ b2 ++ b3 ++ b4 ++ b5 ++ b6 ++ b7)) s = writeBytes [b0, b1, b2, b3, b4, b5, b6, b7] s ∧
    (BitVec.ofInt 24 v = b0 ++ b1 ++ b2 → writeParam (.i24 v) s = writeBytes [b0, b1, b2] s))

/-- `read_string(n)` takes the next `n` bytes; with fewer words left it takes those and raises EndOfBuffer at the end (43_rx_read.md
R132, R143; the partial effect is the spec's decision D40). -/
def Obligations.StringReadTakesBytesOrEnds : Prop :=
  ∀ (n : Nat) (s : State) (bs : List Byte), bs = ((s.buf.drop s.cur).take n).map s.cfg.decByte → s.cur ≤ s.buf.length →
    readString n s =
      if s.cur + n ≤ s.buf.length then
        .ok (.bytes bs) { s with
          cur := s.cur + n, crc := crcBytes s.crc bs, record := if s.recording then s.record ++ bs else s.record }
      else .err (.endOfBuffer s.buf.length) { s with
          cur := s.buf.length, crc := crcBytes s.crc bs, record := if s.recording then s.record ++ bs else s.record }

/-- R140: `end_of_buffer()` is whether the cursor is past the last word, and it changes nothing. -/
def Obligations.EndOfBufferIsCursorPastLastWord : Prop :=
  ∀ (s : State) (rest : List HostOp), s.ops = .endOfBuffer :: rest →
    step s = .next { s with result := some (.ok (.bool (decide (s.buf.length ≤ s.cur)))), events := [], ops := rest }

/-- TSC's property 1 (41_crc.md R109): bytes written to a fresh buffer with their CRC are read back as they were, the CRC check does not
raise, and the accumulator is 0xFFFF again. -/
def Obligations.WrittenFrameReadsBackAndChecks : Prop :=
  ∀ (bs : List Byte) (s : State), Claims.unbounded s → s.cfg.byteCodecOk = true → s.crc = 0xFFFF → s.cur = s.buf.length →
    ∃ t, ((writeBytes bs s).andThen fun _ s => writeCrc s) = .ok () t ∧
      ∃ u v, readString bs.length t = .ok (.bytes bs) u ∧ checkCrc u = .ok () v ∧
        v.crc = 0xFFFF ∧ v.cur = v.buf.length ∧ v.buf = t.buf

/-! ## Dispatch and the commanded queue -/

/-- The dispatch loop is the `while` of 44_dispatch.md R153: at the end of the buffer it stops, and elsewhere it is one iteration and
then the loop again. -/
def Obligations.DispatchLoopUnrolls : Prop :=
  ∀ s : State, dispatchAll s =
    if s.endOfBuffer then .ok () s else (frameIteration s).andThen fun _ t => dispatchAll t

/-- TSC's property 5 on a chunk: replies that match the queue in order empty it, and `check_commanded_empty` then succeeds
(44_dispatch.md R170, which the spec derives).  First for replies of functions 107 and 81, whose default replies are CRC only:
every one is surfaced in order.  Then for replies of all nine functions under the default decoders, each with a payload of
the length its decoder reads (the decoders are decision D34 and general knowledge G4, G7 and G9; assumption log entry 11,
PRESUMED). -/
def Obligations.MatchingRepliesEmptyTheQueue : Prop :=
  (∀ (rs : List (Byte × Byte)) (s : State), Claims.unbounded s → s.cfg.byteCodecOk = true →
    s.cfg.rxDelimiterPolicy = .keep → s.cfg.preProcess = none → s.cfg.postProcess = none →
    Claims.registered s.cfg 107 decoder107 → Claims.registered s.cfg 81 decoder81 →
    (∀ r ∈ rs, r.2 = 107 ∨ r.2 = 81) → s.cq = rs →
    ∃ t, processResponse (rs.flatMap fun r => [s.cfg.encByte r.1, s.cfg.encByte r.2,
          s.cfg.encByte (crcLow (crcBytes 0xFFFF [r.1, r.2])), s.cfg.encByte (crcHigh (crcBytes 0xFFFF [r.1, r.2]))])
          (4 * rs.length) s = .ok () t ∧
      t.cq = [] ∧ t.crc = 0xFFFF ∧ t.cur = t.buf.length ∧
      t.events = s.events ++ rs.map (fun r => .decoded r.2 r.1 []) ∧ checkCommandedEmpty t = .ok () t) ∧
  (∀ (rs : List (Byte × Byte × List Byte)) (s : State) (ws : List Word),
    ws = rs.flatMap (fun r => Claims.frameWords s.cfg 0xFFFF (r.1 :: r.2.1 :: r.2.2)) →
    Memory.wf s.cfg.bufWords ws = true → s.cfg.byteCodecOk = true →
    s.cfg.rxDelimiterPolicy = .keep → s.cfg.preProcess = none → s.cfg.postProcess = none →
    Claims.defaultDecoders s.cfg → (∀ r ∈ rs, Claims.payloadOf r.2.1 r.2.2) → s.cq = rs.map (fun r => (r.1, r.2.1)) →
    ∃ t, processResponse ws ws.length s = .ok () t ∧
      t.buf = ws ∧ t.cq = [] ∧ t.crc = 0xFFFF ∧ t.cur = t.buf.length ∧ s.events <+: t.events ∧
      checkCommandedEmpty t = .ok () t)

/-- `push_commanded`: broadcast addresses are skipped; every other address is appended at the tail, or raises QueueFull at the bound;
and TSC's property 7, a broadcast never enters the commanded queue, whether it succeeds or fails (44_dispatch.md R163,
R166; the bound is decision D9 and the class of addresses outside the broadcast set D10).  With room, `broadcast_function`
appends the frame of address, function, counter and the first `data_len` data bytes, TX_FRAMEEND and the delay (R166; the layout
is general knowledge G2 and decision D26, assumption log entry 11, PRESUMED); a data byte past the end of the data is one of
which nothing is said (assumption log entry 13, DESIGN CHOICE). -/
def Obligations.BroadcastsAreNeverQueued : Prop :=
  (∀ (s : State) (a f : Byte),
    (a ∈ s.cfg.broadcastSet → pushCommanded a f s = .ok () s) ∧
    (a ∉ s.cfg.broadcastSet → s.cfg.qDepth ≠ some s.cq.length →
      pushCommanded a f s = .ok () { s with cq := s.cq ++ [(a, f)] }) ∧
    (a ∉ s.cfg.broadcastSet → s.cfg.qDepth = some s.cq.length → pushCommanded a f s = .err (.queueFull a f) s)) ∧
  (∀ b : Byte, b ∈ Config.ilc.broadcastSet ↔ b = 0 ∨ b = 148 ∨ b = 149 ∨ b = 250) ∧
  (∀ (s t : State) (a f c : Byte) (us : Micros) (d : List Byte) (n : Nat) (rest : List HostOp),
    s.ops = .request (.broadcastFunction a f c us d n) :: rest → step s = .next t → t.cq = s.cq) ∧
  (∀ (s : State) (a f c : Byte) (us : Micros) (d : List Byte) (n : Nat), Claims.room s (n + 7) →
    ∃ extra free, extra.length = n - d.length ∧
      broadcastFunction a f c us d n s = .ok () { s with
        buf := s.buf ++ Claims.frameWords s.cfg s.crc (a :: f :: c :: (d.take n ++ extra)) ++
          [s.cfg.txFrameend, timeWord s.cfg.longRounding 0x4 0x5 us]
        crc := 0xFFFF, free := free })

/-- `call_function`: the words of 30_encoding.md R82 in order after what the accumulator had taken, the accumulator at 0xFFFF, and the
pair at the tail of the queue unless the address is a broadcast one; at the queue's bound the words and then QueueFull; at the
buffer's bound the words that fit and BufferFull, nothing queued (44_dispatch.md R165; order of the push decision D27, the
bounds D8 and D9, the partial effect D32 and D40).  Each named request is the request of its function code, timeout and payload
(46_ilc_layer.md R193, R197 to R200; the payloads but that of 81 are general knowledge G3 and G8, the timeouts 1800 and 36500
the spec's decision D34; assumption log entries 11 and 12). -/
def Obligations.CallFunctionEmitsTheRequest : Prop :=
  (∀ (a f : Byte) (us : Micros) (ps : List Param) (s : State) (bytes : List Byte) (ws : List Word),
    bytes = a :: f :: ps.flatMap Param.bytes → ws = Claims.requestWords s.cfg s.crc bytes us →
    (Claims.room s ws.length → Claims.queueRoom s a →
      callFunction a f us ps s = .ok () (Claims.requested a f us (ps.flatMap Param.bytes) s)) ∧
    (Claims.room s ws.length → ¬ Claims.queueRoom s a →
      callFunction a f us ps s = .err (.queueFull a f) { s with buf := s.buf ++ ws, crc := 0xFFFF }) ∧
    (∀ n : Nat, s.cfg.bufWords = some n → s.buf.length ≤ n → n < s.buf.length + ws.length →
      callFunction a f us ps s = .err (.bufferFull n) { s with
        buf := s.buf ++ ws.take (n - s.buf.length)
        crc := if n - s.buf.length < bytes.length then crcBytes s.crc (bytes.take (n - s.buf.length + 1))
          else if n - s.buf.length < bytes.length + 2 then crcBytes s.crc bytes else 0xFFFF })) ∧
  (∀ (s : State) (rest : List HostOp) (r : Request) (a f : Byte) (us : Micros) (payload : List Byte),
    s.ops = .request r :: rest → Claims.namedRequest s.cfg r = some (a, f, us, payload) →
    Claims.room s (payload.length + 6) → Claims.queueRoom s a →
    step s = .next { Claims.requested a f us payload s with result := some (.ok .none), events := [], ops := rest }) ∧
  (Config.ilc.timeoutUs.serverId = 1800 ∧ Config.ilc.timeoutUs.serverStatus = 1800 ∧
    Config.ilc.timeoutUs.setTempAddress = 1800 ∧ Config.ilc.timeoutUs.resetServer = 1800 ∧
    Config.ilc.timeoutUs.hardpointForceStatus = 1800 ∧ Config.ilc.timeoutUs.offsetAndSensitivity = 36500 ∧
    Config.ilc.timeoutUs.calibrationData = 1800 ∧ Config.ilc.timeoutUs.mezzaninePressure = 1800)

/-- The spec's assembly of a request is what the request builder emits: `FRAME`, `FRAMEEND`, `WAIT` against `call_function`, and
`FRAME`, `FRAMEEND`, `SLEEP` against `broadcast_function` (30_encoding.md R86, which the spec derives).  The layout of a broadcast
and its closing delay are the spec's general knowledge G2 and decision D26 (assumption log entry 11, PRESUMED), the assembly
its decision D43 (assumption log entry 24, DEDUCED). -/
def Obligations.AssembledRequestsAreBuiltRequests : Prop :=
  ∀ (a f c : Byte) (us : Micros) (bs : List Byte) (s : State), Claims.unbounded s → s.cfg.qDepth = none →
    s.buf = [] → s.crc = 0xFFFF →
    (∃ t, callFunction a f us (bs.map .u8) s = .ok () t ∧
      t.buf = assemble s.cfg [.frame a f bs, .frameend, .wait us]) ∧
    (∃ t, broadcastFunction a f c us bs bs.length s = .ok () t ∧
      t.buf = assemble s.cfg [.frame a f (c :: bs), .frameend, .sleep us])

/-! ## The change recorder and the ILC layer -/

/-- TSC's property 6 on the recorder: the record just stored compares equal the next time, an altered record reports a change once and then
none, and no other key is touched (45_change_recorder.md R184, R187, which the spec derives). -/
def Obligations.FingerprintIsIdempotent : Prop :=
  ∀ (a f : Byte) (s t : State), t.cache = (responseMatchCached a f s).2.cache →
    ((responseMatchCached a f s).1 = true ↔ s.cached a f = some s.record) ∧
    ((responseMatchCached a f t).1 = true ↔ t.record = s.record) ∧
    (∀ a' f', (a', f') ≠ (a, f) → t.cached a' f' = s.cached a' f')

/-- R194: the broadcast counter is incremented, wraps at 15, and its new value is returned; nothing else changes, and sixteen calls bring
it back. -/
def Obligations.BroadcastCounterWrapsAtFifteen : Prop :=
  (∀ (s : State) (rest : List HostOp), s.ops = .nextBroadcastCounter :: rest →
    step s = .next { s with
      bcast := BitVec.ofNat 4 ((s.bcast.toNat + 1) % 16), result := some (.ok (.uint ((s.bcast.toNat + 1) % 16)))
      events := [], ops := rest }) ∧
  (∀ s : State, nextBroadcastCounter^[16] s = s)

/-- The timeout of a mode change is 100000 when either side is FirmwareUpdate and 335 otherwise (46_ilc_layer.md R196); that absence
counts as not FirmwareUpdate is the spec's decision D35, and that on the wire they are `TX_WAIT_RX 335` and
`TX_WAIT_LONG_RX 101` under either rounding the spec derives from 42_tx_write.md R119. -/
def Obligations.ModeTimeoutRule : Prop :=
  (∀ (previous : Option Byte) (new : Byte),
    ((new = 3 ∨ previous = some 3) → modeTimeout previous new = 100000) ∧
    (¬(new = 3 ∨ previous = some 3) → modeTimeout previous new = 335)) ∧
  (∀ r : Rounding, timeWord r 0x6 0x9 335 = 0x614F ∧ timeWord r 0x6 0x9 100000 = 0x9065)

/-- `change_ilc_mode` is `call_function` of function 65 with the mode, `MODE_REQ_WIDTH` bits wide and big-endian, and the timeout of
the address's last mode; so with room it appends exactly that request, queues it unless the address is a broadcast one, and
changes nothing else, the mode table included (46_ilc_layer.md R195; the width of the mode field is OPEN, decision D36 and G6,
and that the table is not written and absence is not FirmwareUpdate is D35). -/
def Obligations.ChangeModeRequestUsesLastMode : Prop :=
  ∀ (a m : Byte) (s : State) (us : Micros) (p : Param) (payload : List Byte),
    us = (if m = 3 ∨ s.modeOf a = some 3 then 100000 else 335) →
    (s.cfg.modeReqWidth = .bits8 → p = .u8 m ∧ payload = [m]) →
    (s.cfg.modeReqWidth = .bits16 → p = .u16 (m.setWidth 16) ∧ payload = [0, m]) →
    changeIlcMode a m s = callFunction a 65 us [p] s ∧
    (Claims.room s (payload.length + 6) → Claims.queueRoom s a →
      changeIlcMode a m s = .ok () (Claims.requested a 65 us payload s))

/-- The remaining host operations on the record, the queue and the buffer: `record_changes`, `pause_record_changes`,
`check_recording`, `check_commanded_empty`, the snapshot, and `process_response` of an empty chunk and of one beyond the bound of
the buffer, which is not seated (45_change_recorder.md R180, R181, R183, 44_dispatch.md R153, R154, R164, 20_memory.md R48, R64;
that a record starts empty is the spec's decision D20, that `check_recording` and `check_commanded_empty` change nothing its D51
and D41, that the registry is sealed its D46, the bound its D8; the snapshot as an operation is assumption log entry 4, that the
failing call seals its entry 7). -/
def Obligations.RecorderQueueAndSnapshotOperations : Prop :=
  ∀ (s : State) (rest : List HostOp),
    (s.ops = .recordChanges :: rest → step s = .next { s with
      record := [], recording := true, result := some (.ok .none), events := [], ops := rest }) ∧
    (s.ops = .pauseRecordChanges :: rest → step s = .next { s with
      recording := false, result := some (.ok .none), events := [], ops := rest }) ∧
    (∀ cached, s.ops = .checkRecording cached :: rest → step s = .next { s with
      result := some (.ok (.recording (decide (cached = some s.record)) s.record)), events := [], ops := rest }) ∧
    (s.ops = .checkCommandedEmpty :: rest → step s = .next { s with
      result := some (if s.cq = [] then .ok .none else .err (.commandedNonEmpty s.cq)), events := [], ops := rest }) ∧
    (s.ops = .snapshot :: rest → step s = .next { s with
      result := some (.ok (.words s.buf)), events := [], ops := rest }) ∧
    (∀ ws, s.ops = .processResponse ws 0 :: rest → s.cfg.preProcess = none → s.cfg.postProcess = none →
      step s = .next { s with
        buf := [], cur := 0, crc := 0xFFFF, registrySealed := true
        result := some (.ok .none), events := [], ops := rest }) ∧
    (∀ ws n m, s.ops = .processResponse ws n :: rest → s.cfg.preProcess = none → n ≤ ws.length →
      s.cfg.bufWords = some m → m < n →
      step s = .next { s with
        registrySealed := true, result := some (.err (.bufferFull n)), events := [], ops := rest })

/-! ## Whole-machine rules -/

/-- 10_state.md R39: the fingerprints and the mode table are mutated only from within dispatch: no other host operation changes them. -/
def Obligations.TablesChangeOnlyInDispatch : Prop :=
  ∀ (s t : State) (o : HostOp) (rest : List HostOp), s.ops = o :: rest → Claims.dispatches o = false → step s = .next t →
    t.cache = s.cache ∧ t.lastMode = s.lastMode

/-- The configuration is read-only but for `add_response`, which before the first `process_response` extends the registry by an entry
that keeps it well formed and whose decoder is in the grammar; such an entry IS added, and nothing else changes (10_state.md R30,
R33, 44_dispatch.md R150, R151, R152; decisions D13, D34 and D46). -/
def Obligations.ConfigurationIsFixed : Prop :=
  (∀ (s t : State) (o : HostOp) (rest : List HostOp), s.ops = o :: rest → step s = .next t →
    t.cfg = s.cfg ∨
      ∃ e, o = .addResponse e ∧ s.registrySealed = false ∧ t.cfg = { s.cfg with registry := s.cfg.registry ++ [e] } ∧
        Claims.wellFormedRegistry t.cfg.registry ∧ Claims.inGrammar e.decoder) ∧
  (∀ (s : State) (e : Entry) (rest : List HostOp), s.ops = .addResponse e :: rest → s.registrySealed = false →
    Claims.wellFormedRegistry (s.cfg.registry ++ [e]) → Claims.inGrammar e.decoder →
    step s = .next { s with
      cfg := { s.cfg with registry := s.cfg.registry ++ [e] }, result := some (.ok .none), events := [], ops := rest })

/-- The cursor only moves forward, but for the resets to 0 of the seat step, `reset()` and `clear()`, and the unspecified cursor after an
UnknownResponse (40_instruction_words.md R104, which the spec derives). -/
def Obligations.CursorOnlyMovesForward : Prop :=
  ∀ (s t : State) (o : HostOp) (rest : List HostOp), s.ops = o :: rest → Claims.rewinds o = false → step s = .next t →
    s.cur ≤ t.cur ∨ ∃ a f, t.result = some (.err (.unknownResponse a f))

/-- 00_scope.md R9: every operation that has a next state ends in exactly one result, `Ok(v)` or `Err(kind, info)`.  That it is taken
off a list of issued operations is this model's own (assumption log entry 4, DESIGN CHOICE). -/
def Obligations.EveryOperationEndsInOneResult : Prop :=
  ∀ (s t : State) (o : HostOp) (rest : List HostOp), s.ops = o :: rest → step s = .next t →
    (∃ r, t.result = some r) ∧ t.ops = rest

/-- The block takes every operation in every good state, after an error as well: a step has a next state exactly when the operation
is not one the spec refuses (60_exceptions.md R223, decision D32; the refusals of `add_response` and `process_response` are R220
and 10_state.md R33, that of a reserved word to send 93_implementation_defined.md row 10, that of an action the arbiter's state
does not have this model's choice, assumption log entry 15). -/
def Obligations.EveryOperationIsTaken : Prop :=
  ∀ (s : State) (o : HostOp) (rest : List HostOp), Inv s → s.ops = o :: rest → (Steps s ↔ Claims.withinContract s o)

/-- The refusals: an entry that breaks the registry's well-formedness, one whose decoder is outside the grammar, a registry already
in use, a length beyond the words given, and a reserved word to send have no next state, each under its own name
(60_exceptions.md R220 cases 1 to 3, 10_state.md R33, 93_implementation_defined.md row 10; decisions D13, D34, D46, D53). -/
def Obligations.RefusalsHaveNoNextState : Prop :=
  ∀ (s : State) (rest : List HostOp),
    (∀ e, s.ops = .addResponse e :: rest → s.registrySealed = true → step s = .refused .registryReadOnly) ∧
    (∀ e, s.ops = .addResponse e :: rest → s.registrySealed = false → ¬ Claims.wellFormedRegistry (s.cfg.registry ++ [e]) →
      step s = .refused .illFormedRegistry) ∧
    (∀ e, s.ops = .addResponse e :: rest → s.registrySealed = false → Claims.wellFormedRegistry (s.cfg.registry ++ [e]) →
      ¬ Claims.inGrammar e.decoder → step s = .refused .decoderOutsideGrammar) ∧
    (∀ ws n, s.ops = .processResponse ws n :: rest → ws.length < n → step s = .refused .lengthExceedsWords) ∧
    (∀ ws n timeout, s.ops = .writeCommandFifo ws n timeout :: rest → (∃ w ∈ ws.take n, Claims.reserved s.cfg w) →
      step s = .refused .reservedWord)

/-- Every step keeps the good states, from every one of them and for every operation of the host. -/
def Obligations.StepKeepsTheInvariant : Prop := ∀ s t : State, Inv s → step s = .next t → Inv t

/-- The state after reset is a good one. -/
def Obligations.ResetIsAGoodState : Prop := Inv State.reset

/-- The power-on state of 70_reset_and_hazards.md R240, and what `reset()` and `clear()` leave (R241, R242, R243): all of it but the CRC seed
and the queue of `clear(false)` are the spec's decisions D22 to D25. -/
def Obligations.ResetAndClearLeaveWhatTheySay : Prop :=
  (State.reset.crc = 0xFFFF ∧ State.reset.buf = [] ∧ State.reset.cur = 0 ∧ State.reset.recording = false ∧
    State.reset.record = [] ∧ State.reset.cq = [] ∧ (∀ a f, State.reset.cached a f = none) ∧
    (∀ a, State.reset.modeOf a = none) ∧ State.reset.bcast = 0) ∧
  (∀ s : State, resetOp s = { s with cur := 0, crc := 0xFFFF, recording := false, record := [] }) ∧
  (∀ s : State, clearOp true s = { s with buf := [], cur := 0, crc := 0xFFFF, recording := false, record := [] }) ∧
  (∀ s : State, clearOp false s = { s with buf := [], cur := 0, crc := 0xFFFF, recording := false, record := [], cq := [] })

/-! ## The arbiter and the driver -/

/-- The arbiter: its transitions are those of the table of 60_exceptions.md R236, every error goes to FAULT, and an action its state
does not have is refused, which is this model's choice (assumption log entry 15, DESIGN CHOICE); and each row's action is the
table's, `clear(true)`, a request, the snapshot pushed, the signal, the count, the words, `process_response`, the queue check, and
the flush with `clear(false)` (the state machine is the spec's decision D42, assumption log entry 20). -/
def Obligations.ArbiterFollowsItsTable : Prop :=
  (∀ (s : State) (a : ArbAction) (rest : List HostOp), s.ops = .arbiter a :: rest →
    (∀ t v, step s = .next t → t.result = some (.ok v) →
      ∃ ws, (∀ ws', v = .words ws' → ws = ws') ∧ Claims.arbiterTable s.arb a ws = some t.arb) ∧
    (∀ t e, step s = .next t → t.result = some (.err e) → t.arb = .fault) ∧
    (Claims.arbiterTable s.arb a [0] = none → step s = .refused .arbiterNoTransition)) ∧
  (∀ (s : State) (timeout : Nat) (rest : List HostOp), s.ops = .arbiter (.advance timeout) :: rest →
    (s.arb = .idle → step s = .next { s with
      buf := [], cur := 0, crc := 0xFFFF, recording := false, record := [], arb := .compose
      result := some (.ok .none), events := [], ops := rest }) ∧
    (s.arb = .send → (∀ w ∈ s.buf, ¬ Claims.reserved s.cfg w) → step s = .next { s with
      driver := { s.driver with commandFifo := s.driver.commandFifo ++ s.buf }, arb := .request
      result := some (.ok .none), events := [], ops := rest }) ∧
    (∀ n, s.arb = .readCount → s.driver.responseFifo.length = n → n < 65536 → step s = .next { s with
      driver := { s.driver with counted := some (BitVec.ofNat 16 n) }
      arb := if n = 0 then .check else .readWords (BitVec.ofNat 16 n)
      result := some (.ok (.words [BitVec.ofNat 16 n])), events := [], ops := rest }) ∧
    (∀ n, s.arb = .readWords n → s.driver.counted = some n → n.toNat ≤ s.driver.responseFifo.length → step s = .next { s with
      driver := { s.driver with responseFifo := s.driver.responseFifo.drop n.toNat, counted := none }
      arb := .process (s.driver.responseFifo.take n.toNat)
      result := some (.ok (.words (s.driver.responseFifo.take n.toNat))), events := [], ops := rest }) ∧
    (s.arb = .check → step s = .next { s with
      arb := if s.cq = [] then .idle else .fault
      result := some (if s.cq = [] then .ok .none else .err (.commandedNonEmpty s.cq)), events := [], ops := rest }) ∧
    (s.arb = .fault → step s = .next { s with
      buf := [], cur := 0, crc := 0xFFFF, recording := false, record := [], cq := []
      driver := { s.driver with responseFifo := [], counted := none }, arb := .idle
      result := some (.ok .none), events := [], ops := rest })) ∧
  (∀ (s : State) (rest : List HostOp), s.arb = .compose → s.ops = .arbiter .batchComplete :: rest →
    step s = .next { s with arb := .send, result := some (.ok .none), events := [], ops := rest }) ∧
  (∀ (s : State) (rest : List HostOp) (args : List Word), s.arb = .request → s.ops = .arbiter (.signal args) :: rest →
    step s = .next { s with
      driver := { s.driver with requests := s.driver.requests ++ [args] }, arb := .readCount
      result := some (.ok .none), events := [], ops := rest }) ∧
  (∀ (s t : State) (rest : List HostOp) (r : Request), s.arb = .compose → s.ops = .arbiter (.build r) :: rest →
    (runRequest r s.begin = .ok () t →
      step s = .next { t with arb := .compose, result := some (.ok .none), ops := rest }) ∧
    (∀ e, runRequest r s.begin = .err e t → step s = .next { t with arb := .fault, result := some (.err e), ops := rest })) ∧
  (∀ (s t : State) (rest : List HostOp) (ws : List Word) (more : Bool), s.arb = .process ws →
    s.ops = .arbiter (.process more) :: rest →
    (processResponse ws ws.length s.begin = .ok () t → step s = .next { t with
      arb := if more then .readCount else .check, result := some (.ok .none), ops := rest }) ∧
    (∀ e, processResponse ws ws.length s.begin = .err e t →
      step s = .next { t with arb := .fault, result := some (.err e), ops := rest }))

/-- The driver calls: a request without reserved words is pushed whole and a signal with its arguments, and no state of the block
changes; from an idle driver, phase 1 of a response read returns the number of words the FPGA supplied, none included, and phase 2
those words, and the block is as before (60_exceptions.md R233, R234, R235; that the driver's FIFOs stand in the state is this
model's choice, assumption log entry 10, and so is the form of the signal's arguments, its entry 29).  The words of a request are
always pushed, in the ILC dialect and in the PLAIN dialect whatever its wait commands are (30_encoding.md R74, 10_state.md
R30 to R32; that a reserved word alone is held back is 93_implementation_defined.md row 10, entry 30).  A length beyond the words,
and a read outside the two phases, still gives so many words, and touches the driver only (its entry 14, DESIGN CHOICE). -/
def Obligations.DriverCallsMoveWordsOnly : Prop :=
  (∀ (ws : List Word) (n : Nat) (s : State), (∀ w ∈ ws.take n, ¬ Claims.reserved s.cfg w) →
    ∃ extra free, extra.length = n - ws.length ∧ (n ≤ ws.length → free = s.free) ∧
      writeCommandFifo ws n s = .ok () { s with
        driver := { s.driver with commandFifo := s.driver.commandFifo ++ (ws.take n ++ extra) }, free := free }) ∧
  (∀ (s : State) (rest : List HostOp) (timeout : Nat) (crc : Word) (bytes : List Byte) (us : Micros) (ws : List Word),
    ws = Claims.requestWords s.cfg crc bytes us → Claims.ilcFields s.cfg →
    s.ops = .writeCommandFifo ws ws.length timeout :: rest →
    step s = .next { s with
      driver := { s.driver with commandFifo := s.driver.commandFifo ++ ws }
      result := some (.ok .none), events := [], ops := rest }) ∧
  (∀ (s : State) (rest : List HostOp) (args : List Word), s.ops = .writeRequestFifo args :: rest →
    step s = .next { s with
      driver := { s.driver with requests := s.driver.requests ++ [args] }
      result := some (.ok .none), events := [], ops := rest }) ∧
  (∀ (s : State) (ws : List Word), s.driver.responseFifo = [] → s.driver.counted = none → ws.length < 65536 →
    ∃ t, readU16ResponseFifo 1 (fpgaSupply ws s) = .ok [BitVec.ofNat 16 ws.length] t ∧
      readU16ResponseFifo ws.length t = .ok ws s) ∧
  (∀ (n : Nat) (s : State), ∃ ws fifo counted free, ws.length = n ∧
    readU16ResponseFifo n s = .ok ws { s with
      driver := { s.driver with responseFifo := fifo, counted := counted }, free := free })
end

