-- ==== Sys2Proof/Laws/Codec.lean ====
section
/-! SUPPORT. The codec's small lemmas: the fields of a word, the data byte under both dialects, the numbers of byte lists, and
the time words. -/

namespace Sys2Proof

/-! ## Fields -/

@[simp] theorem nibble_mkWord (n : Nibble) (p : Payload) : nibble (mkWord n p) = n := by
  unfold nibble mkWord
  ext i hi
  simp only [BitVec.getElem_extractLsb', BitVec.getLsbD_append]
  have h : ¬ 12 + i < 12 := by omega
  simp [h, BitVec.getLsbD_eq_getElem, hi]

@[simp] theorem payload_mkWord (n : Nibble) (p : Payload) : payload (mkWord n p) = p := by
  unfold payload mkWord
  ext i hi
  rw [BitVec.getElem_extractLsb', Nat.zero_add, BitVec.getLsbD_append, if_pos hi, BitVec.getLsbD_eq_getElem]

theorem mkWord_nibble_payload (w : Word) : mkWord (nibble w) (payload w) = w := by
  unfold nibble mkWord payload
  ext i hi
  simp only [BitVec.getElem_append, BitVec.getElem_extractLsb', Nat.zero_add]
  split
  · simp [BitVec.getLsbD_eq_getElem, hi]
  · have : 12 + (i - 12) = i := by omega
    simp [this, BitVec.getLsbD_eq_getElem, hi]

theorem eq_mkWord_of_nibble {w : Word} {n : Nibble} (h : nibble w = n) : mkWord n (payload w) = w := by
  rw [← h, mkWord_nibble_payload]

/-! ## The data byte -/

theorem Config.decByte_encByte {c : Config} (h : c.byteCodecOk = true) (b : Byte) : c.decByte (c.encByte b) = b := by
  unfold Config.decByte Config.encByte
  cases hd : c.dialect with
  | ilc =>
    have hm : c.txMask &&& 0x01FE = 0 := by simpa [Config.byteCodecOk, hd] using h
    simp only
    ext i hi
    simp only [BitVec.getElem_extractLsb', BitVec.getLsbD_or, BitVec.getLsbD_shiftLeft, BitVec.getLsbD_setWidth]
    have hbit : (c.txMask &&& 0x01FE).getLsbD (1 + i) = false := by rw [hm]; simp
    rw [BitVec.getLsbD_and] at hbit
    have h1 : (0x01FE : Word).getLsbD (1 + i) = true := by
      have : i = 0 ∨ i = 1 ∨ i = 2 ∨ i = 3 ∨ i = 4 ∨ i = 5 ∨ i = 6 ∨ i = 7 := by omega
      rcases this with rfl | rfl | rfl | rfl | rfl | rfl | rfl | rfl <;> decide
    rw [h1, Bool.and_true] at hbit
    have h2 : 1 + i - 1 = i := by omega
    have h3 : 1 + i < 16 := by omega
    have h4 : i < 16 := by omega
    rw [BitVec.getLsbD_eq_getElem h3] at hbit
    simp [hbit, h2, h3, h4, BitVec.getLsbD_eq_getElem, hi]
  | plain =>
    simp only
    ext i hi
    simp [BitVec.getLsbD_eq_getElem, hi]
    omega

theorem Config.decByte_layByte (c : Config) (b : Byte) : c.decByte (c.layByte b) = b := by
  unfold Config.decByte Config.layByte
  cases c.dialect with
  | ilc => simp only; revert b; decide
  | plain => simp only; revert b; decide

theorem map_decByte_map_encByte {c : Config} (h : c.byteCodecOk = true) (bs : List Byte) :
    (bs.map c.encByte).map c.decByte = bs := by
  simp [Function.comp_def, Config.decByte_encByte h]

end Sys2Proof

namespace Sys2Proof.Machine

open Sys2Proof

/-! ## Byte lists -/

@[simp] theorem bytesBE_zero (v : Nat) : bytesBE v 0 = [] := rfl
theorem bytesBE_succ (v n : Nat) : bytesBE v (n + 1) = BitVec.ofNat 8 (v >>> (8 * n)) :: bytesBE v n := rfl
@[simp] theorem bytesBE_length (v n : Nat) : (bytesBE v n).length = n := by
  induction n with
  | zero => rfl
  | succ n ih => simp [bytesBE_succ, ih]

theorem natBE_append (bs cs : List Byte) : natBE (bs ++ cs) = natBE bs * 256 ^ cs.length + natBE cs := by
  unfold natBE
  rw [List.foldl_append]
  generalize List.foldl _ 0 bs = x
  induction cs generalizing x with
  | nil => simp
  | cons c cs ih =>
    rw [List.foldl_cons, ih, List.foldl_cons, ih (0 * 256 + c.toNat), List.length_cons, pow_succ]
    ring

theorem natBE_cons (b : Byte) (bs : List Byte) : natBE (b :: bs) = b.toNat * 256 ^ bs.length + natBE bs := by
  rw [show b :: bs = [b] ++ bs from rfl, natBE_append]
  simp [natBE]

@[simp] theorem natBE_nil : natBE [] = 0 := rfl

/-! ## Time words -/

theorem timeOf_mkWord_short (short long : Nibble) (p : Payload) : timeOf short long (mkWord short p) = some p.toNat := by
  simp [timeOf]

theorem timeOf_mkWord_long {short long : Nibble} (h : short ≠ long) (p : Payload) :
    timeOf short long (mkWord long p) = some (p.toNat * 1000) := by
  simp [timeOf, Ne.symm h]

theorem timeWord_short {r : Rounding} {short long : Nibble} {us : Micros} (h : us.toNat ≤ 0xFFF) :
    timeWord r short long us = mkWord short (BitVec.ofNat 12 us.toNat) := by simp [timeWord, h]

theorem timeWord_long {r : Rounding} {short long : Nibble} {us : Micros} (h : 0xFFF < us.toNat) :
    timeWord r short long us = mkWord long (BitVec.ofNat 12 (longMs r us.toNat)) := by
  simp [timeWord, Nat.not_le.mpr h]

theorem longMs_le (r : Rounding) (us : Nat) : longMs r us ≤ 0xFFF := by
  cases r <;> exact Nat.min_le_left _ _

end Sys2Proof.Machine
end

