-- ==== Sys2Proof/Laws/State.lean ====
section
/-! SUPPORT. One lemma per field per update of the state, so that no proof unfolds a record update. -/

namespace Sys2Proof.Machine

open Sys2Proof

/-! ## The field updates -/

@[simp] theorem State.setCfg_cfg (v : Config) (s : State) : (State.setCfg v s).cfg = v := rfl
@[simp] theorem State.setCfg_crc (v : Config) (s : State) : (State.setCfg v s).crc = s.crc := rfl
@[simp] theorem State.setCfg_buf (v : Config) (s : State) : (State.setCfg v s).buf = s.buf := rfl
@[simp] theorem State.setCfg_cur (v : Config) (s : State) : (State.setCfg v s).cur = s.cur := rfl
@[simp] theorem State.setCfg_recording (v : Config) (s : State) : (State.setCfg v s).recording = s.recording := rfl
@[simp] theorem State.setCfg_record (v : Config) (s : State) : (State.setCfg v s).record = s.record := rfl
@[simp] theorem State.setCfg_cq (v : Config) (s : State) : (State.setCfg v s).cq = s.cq := rfl
@[simp] theorem State.setCfg_cache (v : Config) (s : State) : (State.setCfg v s).cache = s.cache := rfl
@[simp] theorem State.setCfg_lastMode (v : Config) (s : State) : (State.setCfg v s).lastMode = s.lastMode := rfl
@[simp] theorem State.setCfg_bcast (v : Config) (s : State) : (State.setCfg v s).bcast = s.bcast := rfl
@[simp] theorem State.setCfg_registrySealed (v : Config) (s : State) : (State.setCfg v s).registrySealed = s.registrySealed := rfl
@[simp] theorem State.setCfg_free (v : Config) (s : State) : (State.setCfg v s).free = s.free := rfl
@[simp] theorem State.setCfg_driver (v : Config) (s : State) : (State.setCfg v s).driver = s.driver := rfl
@[simp] theorem State.setCfg_arb (v : Config) (s : State) : (State.setCfg v s).arb = s.arb := rfl
@[simp] theorem State.setCfg_ops (v : Config) (s : State) : (State.setCfg v s).ops = s.ops := rfl
@[simp] theorem State.setCfg_result (v : Config) (s : State) : (State.setCfg v s).result = s.result := rfl
@[simp] theorem State.setCfg_events (v : Config) (s : State) : (State.setCfg v s).events = s.events := rfl

@[simp] theorem State.setCrc_cfg (v : Word) (s : State) : (State.setCrc v s).cfg = s.cfg := rfl
@[simp] theorem State.setCrc_crc (v : Word) (s : State) : (State.setCrc v s).crc = v := rfl
@[simp] theorem State.setCrc_buf (v : Word) (s : State) : (State.setCrc v s).buf = s.buf := rfl
@[simp] theorem State.setCrc_cur (v : Word) (s : State) : (State.setCrc v s).cur = s.cur := rfl
@[simp] theorem State.setCrc_recording (v : Word) (s : State) : (State.setCrc v s).recording = s.recording := rfl
@[simp] theorem State.setCrc_record (v : Word) (s : State) : (State.setCrc v s).record = s.record := rfl
@[simp] theorem State.setCrc_cq (v : Word) (s : State) : (State.setCrc v s).cq = s.cq := rfl
@[simp] theorem State.setCrc_cache (v : Word) (s : State) : (State.setCrc v s).cache = s.cache := rfl
@[simp] theorem State.setCrc_lastMode (v : Word) (s : State) : (State.setCrc v s).lastMode = s.lastMode := rfl
@[simp] theorem State.setCrc_bcast (v : Word) (s : State) : (State.setCrc v s).bcast = s.bcast := rfl
@[simp] theorem State.setCrc_registrySealed (v : Word) (s : State) : (State.setCrc v s).registrySealed = s.registrySealed := rfl
@[simp] theorem State.setCrc_free (v : Word) (s : State) : (State.setCrc v s).free = s.free := rfl
@[simp] theorem State.setCrc_driver (v : Word) (s : State) : (State.setCrc v s).driver = s.driver := rfl
@[simp] theorem State.setCrc_arb (v : Word) (s : State) : (State.setCrc v s).arb = s.arb := rfl
@[simp] theorem State.setCrc_ops (v : Word) (s : State) : (State.setCrc v s).ops = s.ops := rfl
@[simp] theorem State.setCrc_result (v : Word) (s : State) : (State.setCrc v s).result = s.result := rfl
@[simp] theorem State.setCrc_events (v : Word) (s : State) : (State.setCrc v s).events = s.events := rfl

@[simp] theorem State.setBuf_cfg (v : List Word) (s : State) : (State.setBuf v s).cfg = s.cfg := rfl
@[simp] theorem State.setBuf_crc (v : List Word) (s : State) : (State.setBuf v s).crc = s.crc := rfl
@[simp] theorem State.setBuf_buf (v : List Word) (s : State) : (State.setBuf v s).buf = v := rfl
@[simp] theorem State.setBuf_cur (v : List Word) (s : State) : (State.setBuf v s).cur = s.cur := rfl
@[simp] theorem State.setBuf_recording (v : List Word) (s : State) : (State.setBuf v s).recording = s.recording := rfl
@[simp] theorem State.setBuf_record (v : List Word) (s : State) : (State.setBuf v s).record = s.record := rfl
@[simp] theorem State.setBuf_cq (v : List Word) (s : State) : (State.setBuf v s).cq = s.cq := rfl
@[simp] theorem State.setBuf_cache (v : List Word) (s : State) : (State.setBuf v s).cache = s.cache := rfl
@[simp] theorem State.setBuf_lastMode (v : List Word) (s : State) : (State.setBuf v s).lastMode = s.lastMode := rfl
@[simp] theorem State.setBuf_bcast (v : List Word) (s : State) : (State.setBuf v s).bcast = s.bcast := rfl
@[simp] theorem State.setBuf_registrySealed (v : List Word) (s : State) : (State.setBuf v s).registrySealed = s.registrySealed := rfl
@[simp] theorem State.setBuf_free (v : List Word) (s : State) : (State.setBuf v s).free = s.free := rfl
@[simp] theorem State.setBuf_driver (v : List Word) (s : State) : (State.setBuf v s).driver = s.driver := rfl
@[simp] theorem State.setBuf_arb (v : List Word) (s : State) : (State.setBuf v s).arb = s.arb := rfl
@[simp] theorem State.setBuf_ops (v : List Word) (s : State) : (State.setBuf v s).ops = s.ops := rfl
@[simp] theorem State.setBuf_result (v : List Word) (s : State) : (State.setBuf v s).result = s.result := rfl
@[simp] theorem State.setBuf_events (v : List Word) (s : State) : (State.setBuf v s).events = s.events := rfl

@[simp] theorem State.setCur_cfg (v : Nat) (s : State) : (State.setCur v s).cfg = s.cfg := rfl
@[simp] theorem State.setCur_crc (v : Nat) (s : State) : (State.setCur v s).crc = s.crc := rfl
@[simp] theorem State.setCur_buf (v : Nat) (s : State) : (State.setCur v s).buf = s.buf := rfl
@[simp] theorem State.setCur_cur (v : Nat) (s : State) : (State.setCur v s).cur = v := rfl
@[simp] theorem State.setCur_recording (v : Nat) (s : State) : (State.setCur v s).recording = s.recording := rfl
@[simp] theorem State.setCur_record (v : Nat) (s : State) : (State.setCur v s).record = s.record := rfl
@[simp] theorem State.setCur_cq (v : Nat) (s : State) : (State.setCur v s).cq = s.cq := rfl
@[simp] theorem State.setCur_cache (v : Nat) (s : State) : (State.setCur v s).cache = s.cache := rfl
@[simp] theorem State.setCur_lastMode (v : Nat) (s : State) : (State.setCur v s).lastMode = s.lastMode := rfl
@[simp] theorem State.setCur_bcast (v : Nat) (s : State) : (State.setCur v s).bcast = s.bcast := rfl
@[simp] theorem State.setCur_registrySealed (v : Nat) (s : State) : (State.setCur v s).registrySealed = s.registrySealed := rfl
@[simp] theorem State.setCur_free (v : Nat) (s : State) : (State.setCur v s).free = s.free := rfl
@[simp] theorem State.setCur_driver (v : Nat) (s : State) : (State.setCur v s).driver = s.driver := rfl
@[simp] theorem State.setCur_arb (v : Nat) (s : State) : (State.setCur v s).arb = s.arb := rfl
@[simp] theorem State.setCur_ops (v : Nat) (s : State) : (State.setCur v s).ops = s.ops := rfl
@[simp] theorem State.setCur_result (v : Nat) (s : State) : (State.setCur v s).result = s.result := rfl
@[simp] theorem State.setCur_events (v : Nat) (s : State) : (State.setCur v s).events = s.events := rfl

@[simp] theorem State.setRecording_cfg (v : Bool) (s : State) : (State.setRecording v s).cfg = s.cfg := rfl
@[simp] theorem State.setRecording_crc (v : Bool) (s : State) : (State.setRecording v s).crc = s.crc := rfl
@[simp] theorem State.setRecording_buf (v : Bool) (s : State) : (State.setRecording v s).buf = s.buf := rfl
@[simp] theorem State.setRecording_cur (v : Bool) (s : State) : (State.setRecording v s).cur = s.cur := rfl
@[simp] theorem State.setRecording_recording (v : Bool) (s : State) : (State.setRecording v s).recording = v := rfl
@[simp] theorem State.setRecording_record (v : Bool) (s : State) : (State.setRecording v s).record = s.record := rfl
@[simp] theorem State.setRecording_cq (v : Bool) (s : State) : (State.setRecording v s).cq = s.cq := rfl
@[simp] theorem State.setRecording_cache (v : Bool) (s : State) : (State.setRecording v s).cache = s.cache := rfl
@[simp] theorem State.setRecording_lastMode (v : Bool) (s : State) : (State.setRecording v s).lastMode = s.lastMode := rfl
@[simp] theorem State.setRecording_bcast (v : Bool) (s : State) : (State.setRecording v s).bcast = s.bcast := rfl
@[simp] theorem State.setRecording_registrySealed (v : Bool) (s : State) : (State.setRecording v s).registrySealed = s.registrySealed := rfl
@[simp] theorem State.setRecording_free (v : Bool) (s : State) : (State.setRecording v s).free = s.free := rfl
@[simp] theorem State.setRecording_driver (v : Bool) (s : State) : (State.setRecording v s).driver = s.driver := rfl
@[simp] theorem State.setRecording_arb (v : Bool) (s : State) : (State.setRecording v s).arb = s.arb := rfl
@[simp] theorem State.setRecording_ops (v : Bool) (s : State) : (State.setRecording v s).ops = s.ops := rfl
@[simp] theorem State.setRecording_result (v : Bool) (s : State) : (State.setRecording v s).result = s.result := rfl
@[simp] theorem State.setRecording_events (v : Bool) (s : State) : (State.setRecording v s).events = s.events := rfl

@[simp] theorem State.setRecord_cfg (v : List Byte) (s : State) : (State.setRecord v s).cfg = s.cfg := rfl
@[simp] theorem State.setRecord_crc (v : List Byte) (s : State) : (State.setRecord v s).crc = s.crc := rfl
@[simp] theorem State.setRecord_buf (v : List Byte) (s : State) : (State.setRecord v s).buf = s.buf := rfl
@[simp] theorem State.setRecord_cur (v : List Byte) (s : State) : (State.setRecord v s).cur = s.cur := rfl
@[simp] theorem State.setRecord_recording (v : List Byte) (s : State) : (State.setRecord v s).recording = s.recording := rfl
@[simp] theorem State.setRecord_record (v : List Byte) (s : State) : (State.setRecord v s).record = v := rfl
@[simp] theorem State.setRecord_cq (v : List Byte) (s : State) : (State.setRecord v s).cq = s.cq := rfl
@[simp] theorem State.setRecord_cache (v : List Byte) (s : State) : (State.setRecord v s).cache = s.cache := rfl
@[simp] theorem State.setRecord_lastMode (v : List Byte) (s : State) : (State.setRecord v s).lastMode = s.lastMode := rfl
@[simp] theorem State.setRecord_bcast (v : List Byte) (s : State) : (State.setRecord v s).bcast = s.bcast := rfl
@[simp] theorem State.setRecord_registrySealed (v : List Byte) (s : State) : (State.setRecord v s).registrySealed = s.registrySealed := rfl
@[simp] theorem State.setRecord_free (v : List Byte) (s : State) : (State.setRecord v s).free = s.free := rfl
@[simp] theorem State.setRecord_driver (v : List Byte) (s : State) : (State.setRecord v s).driver = s.driver := rfl
@[simp] theorem State.setRecord_arb (v : List Byte) (s : State) : (State.setRecord v s).arb = s.arb := rfl
@[simp] theorem State.setRecord_ops (v : List Byte) (s : State) : (State.setRecord v s).ops = s.ops := rfl
@[simp] theorem State.setRecord_result (v : List Byte) (s : State) : (State.setRecord v s).result = s.result := rfl
@[simp] theorem State.setRecord_events (v : List Byte) (s : State) : (State.setRecord v s).events = s.events := rfl

@[simp] theorem State.setCq_cfg (v : List (Byte × Byte)) (s : State) : (State.setCq v s).cfg = s.cfg := rfl
@[simp] theorem State.setCq_crc (v : List (Byte × Byte)) (s : State) : (State.setCq v s).crc = s.crc := rfl
@[simp] theorem State.setCq_buf (v : List (Byte × Byte)) (s : State) : (State.setCq v s).buf = s.buf := rfl
@[simp] theorem State.setCq_cur (v : List (Byte × Byte)) (s : State) : (State.setCq v s).cur = s.cur := rfl
@[simp] theorem State.setCq_recording (v : List (Byte × Byte)) (s : State) : (State.setCq v s).recording = s.recording := rfl
@[simp] theorem State.setCq_record (v : List (Byte × Byte)) (s : State) : (State.setCq v s).record = s.record := rfl
@[simp] theorem State.setCq_cq (v : List (Byte × Byte)) (s : State) : (State.setCq v s).cq = v := rfl
@[simp] theorem State.setCq_cache (v : List (Byte × Byte)) (s : State) : (State.setCq v s).cache = s.cache := rfl
@[simp] theorem State.setCq_lastMode (v : List (Byte × Byte)) (s : State) : (State.setCq v s).lastMode = s.lastMode := rfl
@[simp] theorem State.setCq_bcast (v : List (Byte × Byte)) (s : State) : (State.setCq v s).bcast = s.bcast := rfl
@[simp] theorem State.setCq_registrySealed (v : List (Byte × Byte)) (s : State) : (State.setCq v s).registrySealed = s.registrySealed := rfl
@[simp] theorem State.setCq_free (v : List (Byte × Byte)) (s : State) : (State.setCq v s).free = s.free := rfl
@[simp] theorem State.setCq_driver (v : List (Byte × Byte)) (s : State) : (State.setCq v s).driver = s.driver := rfl
@[simp] theorem State.setCq_arb (v : List (Byte × Byte)) (s : State) : (State.setCq v s).arb = s.arb := rfl
@[simp] theorem State.setCq_ops (v : List (Byte × Byte)) (s : State) : (State.setCq v s).ops = s.ops := rfl
@[simp] theorem State.setCq_result (v : List (Byte × Byte)) (s : State) : (State.setCq v s).result = s.result := rfl
@[simp] theorem State.setCq_events (v : List (Byte × Byte)) (s : State) : (State.setCq v s).events = s.events := rfl

@[simp] theorem State.setCache_cfg (v : Table (List Byte)) (s : State) : (State.setCache v s).cfg = s.cfg := rfl
@[simp] theorem State.setCache_crc (v : Table (List Byte)) (s : State) : (State.setCache v s).crc = s.crc := rfl
@[simp] theorem State.setCache_buf (v : Table (List Byte)) (s : State) : (State.setCache v s).buf = s.buf := rfl
@[simp] theorem State.setCache_cur (v : Table (List Byte)) (s : State) : (State.setCache v s).cur = s.cur := rfl
@[simp] theorem State.setCache_recording (v : Table (List Byte)) (s : State) : (State.setCache v s).recording = s.recording := rfl
@[simp] theorem State.setCache_record (v : Table (List Byte)) (s : State) : (State.setCache v s).record = s.record := rfl
@[simp] theorem State.setCache_cq (v : Table (List Byte)) (s : State) : (State.setCache v s).cq = s.cq := rfl
@[simp] theorem State.setCache_cache (v : Table (List Byte)) (s : State) : (State.setCache v s).cache = v := rfl
@[simp] theorem State.setCache_lastMode (v : Table (List Byte)) (s : State) : (State.setCache v s).lastMode = s.lastMode := rfl
@[simp] theorem State.setCache_bcast (v : Table (List Byte)) (s : State) : (State.setCache v s).bcast = s.bcast := rfl
@[simp] theorem State.setCache_registrySealed (v : Table (List Byte)) (s : State) : (State.setCache v s).registrySealed = s.registrySealed := rfl
@[simp] theorem State.setCache_free (v : Table (List Byte)) (s : State) : (State.setCache v s).free = s.free := rfl
@[simp] theorem State.setCache_driver (v : Table (List Byte)) (s : State) : (State.setCache v s).driver = s.driver := rfl
@[simp] theorem State.setCache_arb (v : Table (List Byte)) (s : State) : (State.setCache v s).arb = s.arb := rfl
@[simp] theorem State.setCache_ops (v : Table (List Byte)) (s : State) : (State.setCache v s).ops = s.ops := rfl
@[simp] theorem State.setCache_result (v : Table (List Byte)) (s : State) : (State.setCache v s).result = s.result := rfl
@[simp] theorem State.setCache_events (v : Table (List Byte)) (s : State) : (State.setCache v s).events = s.events := rfl

@[simp] theorem State.setLastMode_cfg (v : Table Byte) (s : State) : (State.setLastMode v s).cfg = s.cfg := rfl
@[simp] theorem State.setLastMode_crc (v : Table Byte) (s : State) : (State.setLastMode v s).crc = s.crc := rfl
@[simp] theorem State.setLastMode_buf (v : Table Byte) (s : State) : (State.setLastMode v s).buf = s.buf := rfl
@[simp] theorem State.setLastMode_cur (v : Table Byte) (s : State) : (State.setLastMode v s).cur = s.cur := rfl
@[simp] theorem State.setLastMode_recording (v : Table Byte) (s : State) : (State.setLastMode v s).recording = s.recording := rfl
@[simp] theorem State.setLastMode_record (v : Table Byte) (s : State) : (State.setLastMode v s).record = s.record := rfl
@[simp] theorem State.setLastMode_cq (v : Table Byte) (s : State) : (State.setLastMode v s).cq = s.cq := rfl
@[simp] theorem State.setLastMode_cache (v : Table Byte) (s : State) : (State.setLastMode v s).cache = s.cache := rfl
@[simp] theorem State.setLastMode_lastMode (v : Table Byte) (s : State) : (State.setLastMode v s).lastMode = v := rfl
@[simp] theorem State.setLastMode_bcast (v : Table Byte) (s : State) : (State.setLastMode v s).bcast = s.bcast := rfl
@[simp] theorem State.setLastMode_registrySealed (v : Table Byte) (s : State) : (State.setLastMode v s).registrySealed = s.registrySealed := rfl
@[simp] theorem State.setLastMode_free (v : Table Byte) (s : State) : (State.setLastMode v s).free = s.free := rfl
@[simp] theorem State.setLastMode_driver (v : Table Byte) (s : State) : (State.setLastMode v s).driver = s.driver := rfl
@[simp] theorem State.setLastMode_arb (v : Table Byte) (s : State) : (State.setLastMode v s).arb = s.arb := rfl
@[simp] theorem State.setLastMode_ops (v : Table Byte) (s : State) : (State.setLastMode v s).ops = s.ops := rfl
@[simp] theorem State.setLastMode_result (v : Table Byte) (s : State) : (State.setLastMode v s).result = s.result := rfl
@[simp] theorem State.setLastMode_events (v : Table Byte) (s : State) : (State.setLastMode v s).events = s.events := rfl

@[simp] theorem State.setBcast_cfg (v : BitVec 4) (s : State) : (State.setBcast v s).cfg = s.cfg := rfl
@[simp] theorem State.setBcast_crc (v : BitVec 4) (s : State) : (State.setBcast v s).crc = s.crc := rfl
@[simp] theorem State.setBcast_buf (v : BitVec 4) (s : State) : (State.setBcast v s).buf = s.buf := rfl
@[simp] theorem State.setBcast_cur (v : BitVec 4) (s : State) : (State.setBcast v s).cur = s.cur := rfl
@[simp] theorem State.setBcast_recording (v : BitVec 4) (s : State) : (State.setBcast v s).recording = s.recording := rfl
@[simp] theorem State.setBcast_record (v : BitVec 4) (s : State) : (State.setBcast v s).record = s.record := rfl
@[simp] theorem State.setBcast_cq (v : BitVec 4) (s : State) : (State.setBcast v s).cq = s.cq := rfl
@[simp] theorem State.setBcast_cache (v : BitVec 4) (s : State) : (State.setBcast v s).cache = s.cache := rfl
@[simp] theorem State.setBcast_lastMode (v : BitVec 4) (s : State) : (State.setBcast v s).lastMode = s.lastMode := rfl
@[simp] theorem State.setBcast_bcast (v : BitVec 4) (s : State) : (State.setBcast v s).bcast = v := rfl
@[simp] theorem State.setBcast_registrySealed (v : BitVec 4) (s : State) : (State.setBcast v s).registrySealed = s.registrySealed := rfl
@[simp] theorem State.setBcast_free (v : BitVec 4) (s : State) : (State.setBcast v s).free = s.free := rfl
@[simp] theorem State.setBcast_driver (v : BitVec 4) (s : State) : (State.setBcast v s).driver = s.driver := rfl
@[simp] theorem State.setBcast_arb (v : BitVec 4) (s : State) : (State.setBcast v s).arb = s.arb := rfl
@[simp] theorem State.setBcast_ops (v : BitVec 4) (s : State) : (State.setBcast v s).ops = s.ops := rfl
@[simp] theorem State.setBcast_result (v : BitVec 4) (s : State) : (State.setBcast v s).result = s.result := rfl
@[simp] theorem State.setBcast_events (v : BitVec 4) (s : State) : (State.setBcast v s).events = s.events := rfl

@[simp] theorem State.setRegistrySealed_cfg (v : Bool) (s : State) : (State.setRegistrySealed v s).cfg = s.cfg := rfl
@[simp] theorem State.setRegistrySealed_crc (v : Bool) (s : State) : (State.setRegistrySealed v s).crc = s.crc := rfl
@[simp] theorem State.setRegistrySealed_buf (v : Bool) (s : State) : (State.setRegistrySealed v s).buf = s.buf := rfl
@[simp] theorem State.setRegistrySealed_cur (v : Bool) (s : State) : (State.setRegistrySealed v s).cur = s.cur := rfl
@[simp] theorem State.setRegistrySealed_recording (v : Bool) (s : State) : (State.setRegistrySealed v s).recording = s.recording := rfl
@[simp] theorem State.setRegistrySealed_record (v : Bool) (s : State) : (State.setRegistrySealed v s).record = s.record := rfl
@[simp] theorem State.setRegistrySealed_cq (v : Bool) (s : State) : (State.setRegistrySealed v s).cq = s.cq := rfl
@[simp] theorem State.setRegistrySealed_cache (v : Bool) (s : State) : (State.setRegistrySealed v s).cache = s.cache := rfl
@[simp] theorem State.setRegistrySealed_lastMode (v : Bool) (s : State) : (State.setRegistrySealed v s).lastMode = s.lastMode := rfl
@[simp] theorem State.setRegistrySealed_bcast (v : Bool) (s : State) : (State.setRegistrySealed v s).bcast = s.bcast := rfl
@[simp] theorem State.setRegistrySealed_registrySealed (v : Bool) (s : State) : (State.setRegistrySealed v s).registrySealed = v := rfl
@[simp] theorem State.setRegistrySealed_free (v : Bool) (s : State) : (State.setRegistrySealed v s).free = s.free := rfl
@[simp] theorem State.setRegistrySealed_driver (v : Bool) (s : State) : (State.setRegistrySealed v s).driver = s.driver := rfl
@[simp] theorem State.setRegistrySealed_arb (v : Bool) (s : State) : (State.setRegistrySealed v s).arb = s.arb := rfl
@[simp] theorem State.setRegistrySealed_ops (v : Bool) (s : State) : (State.setRegistrySealed v s).ops = s.ops := rfl
@[simp] theorem State.setRegistrySealed_result (v : Bool) (s : State) : (State.setRegistrySealed v s).result = s.result := rfl
@[simp] theorem State.setRegistrySealed_events (v : Bool) (s : State) : (State.setRegistrySealed v s).events = s.events := rfl

@[simp] theorem State.setFree_cfg (v : Nat) (s : State) : (State.setFree v s).cfg = s.cfg := rfl
@[simp] theorem State.setFree_crc (v : Nat) (s : State) : (State.setFree v s).crc = s.crc := rfl
@[simp] theorem State.setFree_buf (v : Nat) (s : State) : (State.setFree v s).buf = s.buf := rfl
@[simp] theorem State.setFree_cur (v : Nat) (s : State) : (State.setFree v s).cur = s.cur := rfl
@[simp] theorem State.setFree_recording (v : Nat) (s : State) : (State.setFree v s).recording = s.recording := rfl
@[simp] theorem State.setFree_record (v : Nat) (s : State) : (State.setFree v s).record = s.record := rfl
@[simp] theorem State.setFree_cq (v : Nat) (s : State) : (State.setFree v s).cq = s.cq := rfl
@[simp] theorem State.setFree_cache (v : Nat) (s : State) : (State.setFree v s).cache = s.cache := rfl
@[simp] theorem State.setFree_lastMode (v : Nat) (s : State) : (State.setFree v s).lastMode = s.lastMode := rfl
@[simp] theorem State.setFree_bcast (v : Nat) (s : State) : (State.setFree v s).bcast = s.bcast := rfl
@[simp] theorem State.setFree_registrySealed (v : Nat) (s : State) : (State.setFree v s).registrySealed = s.registrySealed := rfl
@[simp] theorem State.setFree_free (v : Nat) (s : State) : (State.setFree v s).free = v := rfl
@[simp] theorem State.setFree_driver (v : Nat) (s : State) : (State.setFree v s).driver = s.driver := rfl
@[simp] theorem State.setFree_arb (v : Nat) (s : State) : (State.setFree v s).arb = s.arb := rfl
@[simp] theorem State.setFree_ops (v : Nat) (s : State) : (State.setFree v s).ops = s.ops := rfl
@[simp] theorem State.setFree_result (v : Nat) (s : State) : (State.setFree v s).result = s.result := rfl
@[simp] theorem State.setFree_events (v : Nat) (s : State) : (State.setFree v s).events = s.events := rfl

@[simp] theorem State.setDriver_cfg (v : Driver) (s : State) : (State.setDriver v s).cfg = s.cfg := rfl
@[simp] theorem State.setDriver_crc (v : Driver) (s : State) : (State.setDriver v s).crc = s.crc := rfl
@[simp] theorem State.setDriver_buf (v : Driver) (s : State) : (State.setDriver v s).buf = s.buf := rfl
@[simp] theorem State.setDriver_cur (v : Driver) (s : State) : (State.setDriver v s).cur = s.cur := rfl
@[simp] theorem State.setDriver_recording (v : Driver) (s : State) : (State.setDriver v s).recording = s.recording := rfl
@[simp] theorem State.setDriver_record (v : Driver) (s : State) : (State.setDriver v s).record = s.record := rfl
@[simp] theorem State.setDriver_cq (v : Driver) (s : State) : (State.setDriver v s).cq = s.cq := rfl
@[simp] theorem State.setDriver_cache (v : Driver) (s : State) : (State.setDriver v s).cache = s.cache := rfl
@[simp] theorem State.setDriver_lastMode (v : Driver) (s : State) : (State.setDriver v s).lastMode = s.lastMode := rfl
@[simp] theorem State.setDriver_bcast (v : Driver) (s : State) : (State.setDriver v s).bcast = s.bcast := rfl
@[simp] theorem State.setDriver_registrySealed (v : Driver) (s : State) : (State.setDriver v s).registrySealed = s.registrySealed := rfl
@[simp] theorem State.setDriver_free (v : Driver) (s : State) : (State.setDriver v s).free = s.free := rfl
@[simp] theorem State.setDriver_driver (v : Driver) (s : State) : (State.setDriver v s).driver = v := rfl
@[simp] theorem State.setDriver_arb (v : Driver) (s : State) : (State.setDriver v s).arb = s.arb := rfl
@[simp] theorem State.setDriver_ops (v : Driver) (s : State) : (State.setDriver v s).ops = s.ops := rfl
@[simp] theorem State.setDriver_result (v : Driver) (s : State) : (State.setDriver v s).result = s.result := rfl
@[simp] theorem State.setDriver_events (v : Driver) (s : State) : (State.setDriver v s).events = s.events := rfl

@[simp] theorem State.setArb_cfg (v : ArbState) (s : State) : (State.setArb v s).cfg = s.cfg := rfl
@[simp] theorem State.setArb_crc (v : ArbState) (s : State) : (State.setArb v s).crc = s.crc := rfl
@[simp] theorem State.setArb_buf (v : ArbState) (s : State) : (State.setArb v s).buf = s.buf := rfl
@[simp] theorem State.setArb_cur (v : ArbState) (s : State) : (State.setArb v s).cur = s.cur := rfl
@[simp] theorem State.setArb_recording (v : ArbState) (s : State) : (State.setArb v s).recording = s.recording := rfl
@[simp] theorem State.setArb_record (v : ArbState) (s : State) : (State.setArb v s).record = s.record := rfl
@[simp] theorem State.setArb_cq (v : ArbState) (s : State) : (State.setArb v s).cq = s.cq := rfl
@[simp] theorem State.setArb_cache (v : ArbState) (s : State) : (State.setArb v s).cache = s.cache := rfl
@[simp] theorem State.setArb_lastMode (v : ArbState) (s : State) : (State.setArb v s).lastMode = s.lastMode := rfl
@[simp] theorem State.setArb_bcast (v : ArbState) (s : State) : (State.setArb v s).bcast = s.bcast := rfl
@[simp] theorem State.setArb_registrySealed (v : ArbState) (s : State) : (State.setArb v s).registrySealed = s.registrySealed := rfl
@[simp] theorem State.setArb_free (v : ArbState) (s : State) : (State.setArb v s).free = s.free := rfl
@[simp] theorem State.setArb_driver (v : ArbState) (s : State) : (State.setArb v s).driver = s.driver := rfl
@[simp] theorem State.setArb_arb (v : ArbState) (s : State) : (State.setArb v s).arb = v := rfl
@[simp] theorem State.setArb_ops (v : ArbState) (s : State) : (State.setArb v s).ops = s.ops := rfl
@[simp] theorem State.setArb_result (v : ArbState) (s : State) : (State.setArb v s).result = s.result := rfl
@[simp] theorem State.setArb_events (v : ArbState) (s : State) : (State.setArb v s).events = s.events := rfl

@[simp] theorem State.setOps_cfg (v : List HostOp) (s : State) : (State.setOps v s).cfg = s.cfg := rfl
@[simp] theorem State.setOps_crc (v : List HostOp) (s : State) : (State.setOps v s).crc = s.crc := rfl
@[simp] theorem State.setOps_buf (v : List HostOp) (s : State) : (State.setOps v s).buf = s.buf := rfl
@[simp] theorem State.setOps_cur (v : List HostOp) (s : State) : (State.setOps v s).cur = s.cur := rfl
@[simp] theorem State.setOps_recording (v : List HostOp) (s : State) : (State.setOps v s).recording = s.recording := rfl
@[simp] theorem State.setOps_record (v : List HostOp) (s : State) : (State.setOps v s).record = s.record := rfl
@[simp] theorem State.setOps_cq (v : List HostOp) (s : State) : (State.setOps v s).cq = s.cq := rfl
@[simp] theorem State.setOps_cache (v : List HostOp) (s : State) : (State.setOps v s).cache = s.cache := rfl
@[simp] theorem State.setOps_lastMode (v : List HostOp) (s : State) : (State.setOps v s).lastMode = s.lastMode := rfl
@[simp] theorem State.setOps_bcast (v : List HostOp) (s : State) : (State.setOps v s).bcast = s.bcast := rfl
@[simp] theorem State.setOps_registrySealed (v : List HostOp) (s : State) : (State.setOps v s).registrySealed = s.registrySealed := rfl
@[simp] theorem State.setOps_free (v : List HostOp) (s : State) : (State.setOps v s).free = s.free := rfl
@[simp] theorem State.setOps_driver (v : List HostOp) (s : State) : (State.setOps v s).driver = s.driver := rfl
@[simp] theorem State.setOps_arb (v : List HostOp) (s : State) : (State.setOps v s).arb = s.arb := rfl
@[simp] theorem State.setOps_ops (v : List HostOp) (s : State) : (State.setOps v s).ops = v := rfl
@[simp] theorem State.setOps_result (v : List HostOp) (s : State) : (State.setOps v s).result = s.result := rfl
@[simp] theorem State.setOps_events (v : List HostOp) (s : State) : (State.setOps v s).events = s.events := rfl

@[simp] theorem State.setResult_cfg (v : Option Result) (s : State) : (State.setResult v s).cfg = s.cfg := rfl
@[simp] theorem State.setResult_crc (v : Option Result) (s : State) : (State.setResult v s).crc = s.crc := rfl
@[simp] theorem State.setResult_buf (v : Option Result) (s : State) : (State.setResult v s).buf = s.buf := rfl
@[simp] theorem State.setResult_cur (v : Option Result) (s : State) : (State.setResult v s).cur = s.cur := rfl
@[simp] theorem State.setResult_recording (v : Option Result) (s : State) : (State.setResult v s).recording = s.recording := rfl
@[simp] theorem State.setResult_record (v : Option Result) (s : State) : (State.setResult v s).record = s.record := rfl
@[simp] theorem State.setResult_cq (v : Option Result) (s : State) : (State.setResult v s).cq = s.cq := rfl
@[simp] theorem State.setResult_cache (v : Option Result) (s : State) : (State.setResult v s).cache = s.cache := rfl
@[simp] theorem State.setResult_lastMode (v : Option Result) (s : State) : (State.setResult v s).lastMode = s.lastMode := rfl
@[simp] theorem State.setResult_bcast (v : Option Result) (s : State) : (State.setResult v s).bcast = s.bcast := rfl
@[simp] theorem State.setResult_registrySealed (v : Option Result) (s : State) : (State.setResult v s).registrySealed = s.registrySealed := rfl
@[simp] theorem State.setResult_free (v : Option Result) (s : State) : (State.setResult v s).free = s.free := rfl
@[simp] theorem State.setResult_driver (v : Option Result) (s : State) : (State.setResult v s).driver = s.driver := rfl
@[simp] theorem State.setResult_arb (v : Option Result) (s : State) : (State.setResult v s).arb = s.arb := rfl
@[simp] theorem State.setResult_ops (v : Option Result) (s : State) : (State.setResult v s).ops = s.ops := rfl
@[simp] theorem State.setResult_result (v : Option Result) (s : State) : (State.setResult v s).result = v := rfl
@[simp] theorem State.setResult_events (v : Option Result) (s : State) : (State.setResult v s).events = s.events := rfl

@[simp] theorem State.setEvents_cfg (v : List Event) (s : State) : (State.setEvents v s).cfg = s.cfg := rfl
@[simp] theorem State.setEvents_crc (v : List Event) (s : State) : (State.setEvents v s).crc = s.crc := rfl
@[simp] theorem State.setEvents_buf (v : List Event) (s : State) : (State.setEvents v s).buf = s.buf := rfl
@[simp] theorem State.setEvents_cur (v : List Event) (s : State) : (State.setEvents v s).cur = s.cur := rfl
@[simp] theorem State.setEvents_recording (v : List Event) (s : State) : (State.setEvents v s).recording = s.recording := rfl
@[simp] theorem State.setEvents_record (v : List Event) (s : State) : (State.setEvents v s).record = s.record := rfl
@[simp] theorem State.setEvents_cq (v : List Event) (s : State) : (State.setEvents v s).cq = s.cq := rfl
@[simp] theorem State.setEvents_cache (v : List Event) (s : State) : (State.setEvents v s).cache = s.cache := rfl
@[simp] theorem State.setEvents_lastMode (v : List Event) (s : State) : (State.setEvents v s).lastMode = s.lastMode := rfl
@[simp] theorem State.setEvents_bcast (v : List Event) (s : State) : (State.setEvents v s).bcast = s.bcast := rfl
@[simp] theorem State.setEvents_registrySealed (v : List Event) (s : State) : (State.setEvents v s).registrySealed = s.registrySealed := rfl
@[simp] theorem State.setEvents_free (v : List Event) (s : State) : (State.setEvents v s).free = s.free := rfl
@[simp] theorem State.setEvents_driver (v : List Event) (s : State) : (State.setEvents v s).driver = s.driver := rfl
@[simp] theorem State.setEvents_arb (v : List Event) (s : State) : (State.setEvents v s).arb = s.arb := rfl
@[simp] theorem State.setEvents_ops (v : List Event) (s : State) : (State.setEvents v s).ops = s.ops := rfl
@[simp] theorem State.setEvents_result (v : List Event) (s : State) : (State.setEvents v s).result = s.result := rfl
@[simp] theorem State.setEvents_events (v : List Event) (s : State) : (State.setEvents v s).events = v := rfl

/-! ## The updates built from them -/

@[simp] theorem State.begin_cfg (s : State) : (State.begin s).cfg = s.cfg := rfl
@[simp] theorem State.begin_crc (s : State) : (State.begin s).crc = s.crc := rfl
@[simp] theorem State.begin_buf (s : State) : (State.begin s).buf = s.buf := rfl
@[simp] theorem State.begin_cur (s : State) : (State.begin s).cur = s.cur := rfl
@[simp] theorem State.begin_recording (s : State) : (State.begin s).recording = s.recording := rfl
@[simp] theorem State.begin_record (s : State) : (State.begin s).record = s.record := rfl
@[simp] theorem State.begin_cq (s : State) : (State.begin s).cq = s.cq := rfl
@[simp] theorem State.begin_cache (s : State) : (State.begin s).cache = s.cache := rfl
@[simp] theorem State.begin_lastMode (s : State) : (State.begin s).lastMode = s.lastMode := rfl
@[simp] theorem State.begin_bcast (s : State) : (State.begin s).bcast = s.bcast := rfl
@[simp] theorem State.begin_registrySealed (s : State) : (State.begin s).registrySealed = s.registrySealed := rfl
@[simp] theorem State.begin_free (s : State) : (State.begin s).free = s.free := rfl
@[simp] theorem State.begin_driver (s : State) : (State.begin s).driver = s.driver := rfl
@[simp] theorem State.begin_arb (s : State) : (State.begin s).arb = s.arb := rfl
@[simp] theorem State.begin_ops (s : State) : (State.begin s).ops = s.ops := rfl
@[simp] theorem State.begin_result (s : State) : (State.begin s).result = none := rfl
@[simp] theorem State.begin_events (s : State) : (State.begin s).events = [] := rfl

@[simp] theorem State.complete_cfg (r : Result) (s : State) : (State.complete r s).cfg = s.cfg := rfl
@[simp] theorem State.complete_crc (r : Result) (s : State) : (State.complete r s).crc = s.crc := rfl
@[simp] theorem State.complete_buf (r : Result) (s : State) : (State.complete r s).buf = s.buf := rfl
@[simp] theorem State.complete_cur (r : Result) (s : State) : (State.complete r s).cur = s.cur := rfl
@[simp] theorem State.complete_recording (r : Result) (s : State) : (State.complete r s).recording = s.recording := rfl
@[simp] theorem State.complete_record (r : Result) (s : State) : (State.complete r s).record = s.record := rfl
@[simp] theorem State.complete_cq (r : Result) (s : State) : (State.complete r s).cq = s.cq := rfl
@[simp] theorem State.complete_cache (r : Result) (s : State) : (State.complete r s).cache = s.cache := rfl
@[simp] theorem State.complete_lastMode (r : Result) (s : State) : (State.complete r s).lastMode = s.lastMode := rfl
@[simp] theorem State.complete_bcast (r : Result) (s : State) : (State.complete r s).bcast = s.bcast := rfl
@[simp] theorem State.complete_registrySealed (r : Result) (s : State) : (State.complete r s).registrySealed = s.registrySealed := rfl
@[simp] theorem State.complete_free (r : Result) (s : State) : (State.complete r s).free = s.free := rfl
@[simp] theorem State.complete_driver (r : Result) (s : State) : (State.complete r s).driver = s.driver := rfl
@[simp] theorem State.complete_arb (r : Result) (s : State) : (State.complete r s).arb = s.arb := rfl
@[simp] theorem State.complete_ops (r : Result) (s : State) : (State.complete r s).ops = s.ops.tail := rfl
@[simp] theorem State.complete_result (r : Result) (s : State) : (State.complete r s).result = some r := rfl
@[simp] theorem State.complete_events (r : Result) (s : State) : (State.complete r s).events = s.events := rfl

@[simp] theorem State.advance_cfg (s : State) : (State.advance s).cfg = s.cfg := rfl
@[simp] theorem State.advance_crc (s : State) : (State.advance s).crc = s.crc := rfl
@[simp] theorem State.advance_buf (s : State) : (State.advance s).buf = s.buf := rfl
@[simp] theorem State.advance_cur (s : State) : (State.advance s).cur = s.cur + 1 := rfl
@[simp] theorem State.advance_recording (s : State) : (State.advance s).recording = s.recording := rfl
@[simp] theorem State.advance_record (s : State) : (State.advance s).record = s.record := rfl
@[simp] theorem State.advance_cq (s : State) : (State.advance s).cq = s.cq := rfl
@[simp] theorem State.advance_cache (s : State) : (State.advance s).cache = s.cache := rfl
@[simp] theorem State.advance_lastMode (s : State) : (State.advance s).lastMode = s.lastMode := rfl
@[simp] theorem State.advance_bcast (s : State) : (State.advance s).bcast = s.bcast := rfl
@[simp] theorem State.advance_registrySealed (s : State) : (State.advance s).registrySealed = s.registrySealed := rfl
@[simp] theorem State.advance_free (s : State) : (State.advance s).free = s.free := rfl
@[simp] theorem State.advance_driver (s : State) : (State.advance s).driver = s.driver := rfl
@[simp] theorem State.advance_arb (s : State) : (State.advance s).arb = s.arb := rfl
@[simp] theorem State.advance_ops (s : State) : (State.advance s).ops = s.ops := rfl
@[simp] theorem State.advance_result (s : State) : (State.advance s).result = s.result := rfl
@[simp] theorem State.advance_events (s : State) : (State.advance s).events = s.events := rfl

@[simp] theorem State.crcReset_cfg (s : State) : (State.crcReset s).cfg = s.cfg := rfl
@[simp] theorem State.crcReset_crc (s : State) : (State.crcReset s).crc = 0xFFFF := rfl
@[simp] theorem State.crcReset_buf (s : State) : (State.crcReset s).buf = s.buf := rfl
@[simp] theorem State.crcReset_cur (s : State) : (State.crcReset s).cur = s.cur := rfl
@[simp] theorem State.crcReset_recording (s : State) : (State.crcReset s).recording = s.recording := rfl
@[simp] theorem State.crcReset_record (s : State) : (State.crcReset s).record = s.record := rfl
@[simp] theorem State.crcReset_cq (s : State) : (State.crcReset s).cq = s.cq := rfl
@[simp] theorem State.crcReset_cache (s : State) : (State.crcReset s).cache = s.cache := rfl
@[simp] theorem State.crcReset_lastMode (s : State) : (State.crcReset s).lastMode = s.lastMode := rfl
@[simp] theorem State.crcReset_bcast (s : State) : (State.crcReset s).bcast = s.bcast := rfl
@[simp] theorem State.crcReset_registrySealed (s : State) : (State.crcReset s).registrySealed = s.registrySealed := rfl
@[simp] theorem State.crcReset_free (s : State) : (State.crcReset s).free = s.free := rfl
@[simp] theorem State.crcReset_driver (s : State) : (State.crcReset s).driver = s.driver := rfl
@[simp] theorem State.crcReset_arb (s : State) : (State.crcReset s).arb = s.arb := rfl
@[simp] theorem State.crcReset_ops (s : State) : (State.crcReset s).ops = s.ops := rfl
@[simp] theorem State.crcReset_result (s : State) : (State.crcReset s).result = s.result := rfl
@[simp] theorem State.crcReset_events (s : State) : (State.crcReset s).events = s.events := rfl

@[simp] theorem State.crcAdd_cfg (b : Byte) (s : State) : (State.crcAdd b s).cfg = s.cfg := rfl
@[simp] theorem State.crcAdd_crc (b : Byte) (s : State) : (State.crcAdd b s).crc = crcByte s.crc b := rfl
@[simp] theorem State.crcAdd_buf (b : Byte) (s : State) : (State.crcAdd b s).buf = s.buf := rfl
@[simp] theorem State.crcAdd_cur (b : Byte) (s : State) : (State.crcAdd b s).cur = s.cur := rfl
@[simp] theorem State.crcAdd_recording (b : Byte) (s : State) : (State.crcAdd b s).recording = s.recording := rfl
@[simp] theorem State.crcAdd_record (b : Byte) (s : State) : (State.crcAdd b s).record = s.record := rfl
@[simp] theorem State.crcAdd_cq (b : Byte) (s : State) : (State.crcAdd b s).cq = s.cq := rfl
@[simp] theorem State.crcAdd_cache (b : Byte) (s : State) : (State.crcAdd b s).cache = s.cache := rfl
@[simp] theorem State.crcAdd_lastMode (b : Byte) (s : State) : (State.crcAdd b s).lastMode = s.lastMode := rfl
@[simp] theorem State.crcAdd_bcast (b : Byte) (s : State) : (State.crcAdd b s).bcast = s.bcast := rfl
@[simp] theorem State.crcAdd_registrySealed (b : Byte) (s : State) : (State.crcAdd b s).registrySealed = s.registrySealed := rfl
@[simp] theorem State.crcAdd_free (b : Byte) (s : State) : (State.crcAdd b s).free = s.free := rfl
@[simp] theorem State.crcAdd_driver (b : Byte) (s : State) : (State.crcAdd b s).driver = s.driver := rfl
@[simp] theorem State.crcAdd_arb (b : Byte) (s : State) : (State.crcAdd b s).arb = s.arb := rfl
@[simp] theorem State.crcAdd_ops (b : Byte) (s : State) : (State.crcAdd b s).ops = s.ops := rfl
@[simp] theorem State.crcAdd_result (b : Byte) (s : State) : (State.crcAdd b s).result = s.result := rfl
@[simp] theorem State.crcAdd_events (b : Byte) (s : State) : (State.crcAdd b s).events = s.events := rfl

@[simp] theorem State.deliver_cfg (e : Event) (s : State) : (State.deliver e s).cfg = s.cfg := rfl
@[simp] theorem State.deliver_crc (e : Event) (s : State) : (State.deliver e s).crc = s.crc := rfl
@[simp] theorem State.deliver_buf (e : Event) (s : State) : (State.deliver e s).buf = s.buf := rfl
@[simp] theorem State.deliver_cur (e : Event) (s : State) : (State.deliver e s).cur = s.cur := rfl
@[simp] theorem State.deliver_recording (e : Event) (s : State) : (State.deliver e s).recording = s.recording := rfl
@[simp] theorem State.deliver_record (e : Event) (s : State) : (State.deliver e s).record = s.record := rfl
@[simp] theorem State.deliver_cq (e : Event) (s : State) : (State.deliver e s).cq = s.cq := rfl
@[simp] theorem State.deliver_cache (e : Event) (s : State) : (State.deliver e s).cache = s.cache := rfl
@[simp] theorem State.deliver_lastMode (e : Event) (s : State) : (State.deliver e s).lastMode = s.lastMode := rfl
@[simp] theorem State.deliver_bcast (e : Event) (s : State) : (State.deliver e s).bcast = s.bcast := rfl
@[simp] theorem State.deliver_registrySealed (e : Event) (s : State) : (State.deliver e s).registrySealed = s.registrySealed := rfl
@[simp] theorem State.deliver_free (e : Event) (s : State) : (State.deliver e s).free = s.free := rfl
@[simp] theorem State.deliver_driver (e : Event) (s : State) : (State.deliver e s).driver = s.driver := rfl
@[simp] theorem State.deliver_arb (e : Event) (s : State) : (State.deliver e s).arb = s.arb := rfl
@[simp] theorem State.deliver_ops (e : Event) (s : State) : (State.deliver e s).ops = s.ops := rfl
@[simp] theorem State.deliver_result (e : Event) (s : State) : (State.deliver e s).result = s.result := rfl
@[simp] theorem State.deliver_events (e : Event) (s : State) : (State.deliver e s).events = s.events ++ [e] := rfl

@[simp] theorem State.setCached_cfg (a f : Byte) (l : List Byte) (s : State) : (State.setCached a f l s).cfg = s.cfg := rfl
@[simp] theorem State.setCached_crc (a f : Byte) (l : List Byte) (s : State) : (State.setCached a f l s).crc = s.crc := rfl
@[simp] theorem State.setCached_buf (a f : Byte) (l : List Byte) (s : State) : (State.setCached a f l s).buf = s.buf := rfl
@[simp] theorem State.setCached_cur (a f : Byte) (l : List Byte) (s : State) : (State.setCached a f l s).cur = s.cur := rfl
@[simp] theorem State.setCached_recording (a f : Byte) (l : List Byte) (s : State) : (State.setCached a f l s).recording = s.recording := rfl
@[simp] theorem State.setCached_record (a f : Byte) (l : List Byte) (s : State) : (State.setCached a f l s).record = s.record := rfl
@[simp] theorem State.setCached_cq (a f : Byte) (l : List Byte) (s : State) : (State.setCached a f l s).cq = s.cq := rfl
@[simp] theorem State.setCached_cache (a f : Byte) (l : List Byte) (s : State) : (State.setCached a f l s).cache = Table.set s.cache (cacheKey a f) l := rfl
@[simp] theorem State.setCached_lastMode (a f : Byte) (l : List Byte) (s : State) : (State.setCached a f l s).lastMode = s.lastMode := rfl
@[simp] theorem State.setCached_bcast (a f : Byte) (l : List Byte) (s : State) : (State.setCached a f l s).bcast = s.bcast := rfl
@[simp] theorem State.setCached_registrySealed (a f : Byte) (l : List Byte) (s : State) : (State.setCached a f l s).registrySealed = s.registrySealed := rfl
@[simp] theorem State.setCached_free (a f : Byte) (l : List Byte) (s : State) : (State.setCached a f l s).free = s.free := rfl
@[simp] theorem State.setCached_driver (a f : Byte) (l : List Byte) (s : State) : (State.setCached a f l s).driver = s.driver := rfl
@[simp] theorem State.setCached_arb (a f : Byte) (l : List Byte) (s : State) : (State.setCached a f l s).arb = s.arb := rfl
@[simp] theorem State.setCached_ops (a f : Byte) (l : List Byte) (s : State) : (State.setCached a f l s).ops = s.ops := rfl
@[simp] theorem State.setCached_result (a f : Byte) (l : List Byte) (s : State) : (State.setCached a f l s).result = s.result := rfl
@[simp] theorem State.setCached_events (a f : Byte) (l : List Byte) (s : State) : (State.setCached a f l s).events = s.events := rfl

@[simp] theorem State.setModeOf_cfg (a m : Byte) (s : State) : (State.setModeOf a m s).cfg = s.cfg := rfl
@[simp] theorem State.setModeOf_crc (a m : Byte) (s : State) : (State.setModeOf a m s).crc = s.crc := rfl
@[simp] theorem State.setModeOf_buf (a m : Byte) (s : State) : (State.setModeOf a m s).buf = s.buf := rfl
@[simp] theorem State.setModeOf_cur (a m : Byte) (s : State) : (State.setModeOf a m s).cur = s.cur := rfl
@[simp] theorem State.setModeOf_recording (a m : Byte) (s : State) : (State.setModeOf a m s).recording = s.recording := rfl
@[simp] theorem State.setModeOf_record (a m : Byte) (s : State) : (State.setModeOf a m s).record = s.record := rfl
@[simp] theorem State.setModeOf_cq (a m : Byte) (s : State) : (State.setModeOf a m s).cq = s.cq := rfl
@[simp] theorem State.setModeOf_cache (a m : Byte) (s : State) : (State.setModeOf a m s).cache = s.cache := rfl
@[simp] theorem State.setModeOf_lastMode (a m : Byte) (s : State) : (State.setModeOf a m s).lastMode = Table.set s.lastMode a.toNat m := rfl
@[simp] theorem State.setModeOf_bcast (a m : Byte) (s : State) : (State.setModeOf a m s).bcast = s.bcast := rfl
@[simp] theorem State.setModeOf_registrySealed (a m : Byte) (s : State) : (State.setModeOf a m s).registrySealed = s.registrySealed := rfl
@[simp] theorem State.setModeOf_free (a m : Byte) (s : State) : (State.setModeOf a m s).free = s.free := rfl
@[simp] theorem State.setModeOf_driver (a m : Byte) (s : State) : (State.setModeOf a m s).driver = s.driver := rfl
@[simp] theorem State.setModeOf_arb (a m : Byte) (s : State) : (State.setModeOf a m s).arb = s.arb := rfl
@[simp] theorem State.setModeOf_ops (a m : Byte) (s : State) : (State.setModeOf a m s).ops = s.ops := rfl
@[simp] theorem State.setModeOf_result (a m : Byte) (s : State) : (State.setModeOf a m s).result = s.result := rfl
@[simp] theorem State.setModeOf_events (a m : Byte) (s : State) : (State.setModeOf a m s).events = s.events := rfl

@[simp] theorem State.takeFree_cfg (n : Nat) (s : State) : (State.takeFree n s).cfg = s.cfg := rfl
@[simp] theorem State.takeFree_crc (n : Nat) (s : State) : (State.takeFree n s).crc = s.crc := rfl
@[simp] theorem State.takeFree_buf (n : Nat) (s : State) : (State.takeFree n s).buf = s.buf := rfl
@[simp] theorem State.takeFree_cur (n : Nat) (s : State) : (State.takeFree n s).cur = s.cur := rfl
@[simp] theorem State.takeFree_recording (n : Nat) (s : State) : (State.takeFree n s).recording = s.recording := rfl
@[simp] theorem State.takeFree_record (n : Nat) (s : State) : (State.takeFree n s).record = s.record := rfl
@[simp] theorem State.takeFree_cq (n : Nat) (s : State) : (State.takeFree n s).cq = s.cq := rfl
@[simp] theorem State.takeFree_cache (n : Nat) (s : State) : (State.takeFree n s).cache = s.cache := rfl
@[simp] theorem State.takeFree_lastMode (n : Nat) (s : State) : (State.takeFree n s).lastMode = s.lastMode := rfl
@[simp] theorem State.takeFree_bcast (n : Nat) (s : State) : (State.takeFree n s).bcast = s.bcast := rfl
@[simp] theorem State.takeFree_registrySealed (n : Nat) (s : State) : (State.takeFree n s).registrySealed = s.registrySealed := rfl
@[simp] theorem State.takeFree_free (n : Nat) (s : State) : (State.takeFree n s).free = s.free + n := rfl
@[simp] theorem State.takeFree_driver (n : Nat) (s : State) : (State.takeFree n s).driver = s.driver := rfl
@[simp] theorem State.takeFree_arb (n : Nat) (s : State) : (State.takeFree n s).arb = s.arb := rfl
@[simp] theorem State.takeFree_ops (n : Nat) (s : State) : (State.takeFree n s).ops = s.ops := rfl
@[simp] theorem State.takeFree_result (n : Nat) (s : State) : (State.takeFree n s).result = s.result := rfl
@[simp] theorem State.takeFree_events (n : Nat) (s : State) : (State.takeFree n s).events = s.events := rfl

@[simp] theorem State.loseCursor_cfg (s : State) : (State.loseCursor s).cfg = s.cfg := rfl
@[simp] theorem State.loseCursor_crc (s : State) : (State.loseCursor s).crc = s.crc := rfl
@[simp] theorem State.loseCursor_buf (s : State) : (State.loseCursor s).buf = s.buf := rfl
@[simp] theorem State.loseCursor_cur (s : State) : (State.loseCursor s).cur = min (Config.freeCursor s.free) s.buf.length := rfl
@[simp] theorem State.loseCursor_recording (s : State) : (State.loseCursor s).recording = s.recording := rfl
@[simp] theorem State.loseCursor_record (s : State) : (State.loseCursor s).record = s.record := rfl
@[simp] theorem State.loseCursor_cq (s : State) : (State.loseCursor s).cq = s.cq := rfl
@[simp] theorem State.loseCursor_cache (s : State) : (State.loseCursor s).cache = s.cache := rfl
@[simp] theorem State.loseCursor_lastMode (s : State) : (State.loseCursor s).lastMode = s.lastMode := rfl
@[simp] theorem State.loseCursor_bcast (s : State) : (State.loseCursor s).bcast = s.bcast := rfl
@[simp] theorem State.loseCursor_registrySealed (s : State) : (State.loseCursor s).registrySealed = s.registrySealed := rfl
@[simp] theorem State.loseCursor_free (s : State) : (State.loseCursor s).free = s.free + 1 := rfl
@[simp] theorem State.loseCursor_driver (s : State) : (State.loseCursor s).driver = s.driver := rfl
@[simp] theorem State.loseCursor_arb (s : State) : (State.loseCursor s).arb = s.arb := rfl
@[simp] theorem State.loseCursor_ops (s : State) : (State.loseCursor s).ops = s.ops := rfl
@[simp] theorem State.loseCursor_result (s : State) : (State.loseCursor s).result = s.result := rfl
@[simp] theorem State.loseCursor_events (s : State) : (State.loseCursor s).events = s.events := rfl

@[simp] theorem recordChanges_cfg (s : State) : (recordChanges s).cfg = s.cfg := rfl
@[simp] theorem recordChanges_crc (s : State) : (recordChanges s).crc = s.crc := rfl
@[simp] theorem recordChanges_buf (s : State) : (recordChanges s).buf = s.buf := rfl
@[simp] theorem recordChanges_cur (s : State) : (recordChanges s).cur = s.cur := rfl
@[simp] theorem recordChanges_recording (s : State) : (recordChanges s).recording = true := rfl
@[simp] theorem recordChanges_record (s : State) : (recordChanges s).record = [] := rfl
@[simp] theorem recordChanges_cq (s : State) : (recordChanges s).cq = s.cq := rfl
@[simp] theorem recordChanges_cache (s : State) : (recordChanges s).cache = s.cache := rfl
@[simp] theorem recordChanges_lastMode (s : State) : (recordChanges s).lastMode = s.lastMode := rfl
@[simp] theorem recordChanges_bcast (s : State) : (recordChanges s).bcast = s.bcast := rfl
@[simp] theorem recordChanges_registrySealed (s : State) : (recordChanges s).registrySealed = s.registrySealed := rfl
@[simp] theorem recordChanges_free (s : State) : (recordChanges s).free = s.free := rfl
@[simp] theorem recordChanges_driver (s : State) : (recordChanges s).driver = s.driver := rfl
@[simp] theorem recordChanges_arb (s : State) : (recordChanges s).arb = s.arb := rfl
@[simp] theorem recordChanges_ops (s : State) : (recordChanges s).ops = s.ops := rfl
@[simp] theorem recordChanges_result (s : State) : (recordChanges s).result = s.result := rfl
@[simp] theorem recordChanges_events (s : State) : (recordChanges s).events = s.events := rfl

@[simp] theorem pauseRecordChanges_cfg (s : State) : (pauseRecordChanges s).cfg = s.cfg := rfl
@[simp] theorem pauseRecordChanges_crc (s : State) : (pauseRecordChanges s).crc = s.crc := rfl
@[simp] theorem pauseRecordChanges_buf (s : State) : (pauseRecordChanges s).buf = s.buf := rfl
@[simp] theorem pauseRecordChanges_cur (s : State) : (pauseRecordChanges s).cur = s.cur := rfl
@[simp] theorem pauseRecordChanges_recording (s : State) : (pauseRecordChanges s).recording = false := rfl
@[simp] theorem pauseRecordChanges_record (s : State) : (pauseRecordChanges s).record = s.record := rfl
@[simp] theorem pauseRecordChanges_cq (s : State) : (pauseRecordChanges s).cq = s.cq := rfl
@[simp] theorem pauseRecordChanges_cache (s : State) : (pauseRecordChanges s).cache = s.cache := rfl
@[simp] theorem pauseRecordChanges_lastMode (s : State) : (pauseRecordChanges s).lastMode = s.lastMode := rfl
@[simp] theorem pauseRecordChanges_bcast (s : State) : (pauseRecordChanges s).bcast = s.bcast := rfl
@[simp] theorem pauseRecordChanges_registrySealed (s : State) : (pauseRecordChanges s).registrySealed = s.registrySealed := rfl
@[simp] theorem pauseRecordChanges_free (s : State) : (pauseRecordChanges s).free = s.free := rfl
@[simp] theorem pauseRecordChanges_driver (s : State) : (pauseRecordChanges s).driver = s.driver := rfl
@[simp] theorem pauseRecordChanges_arb (s : State) : (pauseRecordChanges s).arb = s.arb := rfl
@[simp] theorem pauseRecordChanges_ops (s : State) : (pauseRecordChanges s).ops = s.ops := rfl
@[simp] theorem pauseRecordChanges_result (s : State) : (pauseRecordChanges s).result = s.result := rfl
@[simp] theorem pauseRecordChanges_events (s : State) : (pauseRecordChanges s).events = s.events := rfl

@[simp] theorem nextBroadcastCounter_cfg (s : State) : (nextBroadcastCounter s).cfg = s.cfg := rfl
@[simp] theorem nextBroadcastCounter_crc (s : State) : (nextBroadcastCounter s).crc = s.crc := rfl
@[simp] theorem nextBroadcastCounter_buf (s : State) : (nextBroadcastCounter s).buf = s.buf := rfl
@[simp] theorem nextBroadcastCounter_cur (s : State) : (nextBroadcastCounter s).cur = s.cur := rfl
@[simp] theorem nextBroadcastCounter_recording (s : State) : (nextBroadcastCounter s).recording = s.recording := rfl
@[simp] theorem nextBroadcastCounter_record (s : State) : (nextBroadcastCounter s).record = s.record := rfl
@[simp] theorem nextBroadcastCounter_cq (s : State) : (nextBroadcastCounter s).cq = s.cq := rfl
@[simp] theorem nextBroadcastCounter_cache (s : State) : (nextBroadcastCounter s).cache = s.cache := rfl
@[simp] theorem nextBroadcastCounter_lastMode (s : State) : (nextBroadcastCounter s).lastMode = s.lastMode := rfl
@[simp] theorem nextBroadcastCounter_bcast (s : State) : (nextBroadcastCounter s).bcast = s.bcast + 1 := rfl
@[simp] theorem nextBroadcastCounter_registrySealed (s : State) : (nextBroadcastCounter s).registrySealed = s.registrySealed := rfl
@[simp] theorem nextBroadcastCounter_free (s : State) : (nextBroadcastCounter s).free = s.free := rfl
@[simp] theorem nextBroadcastCounter_driver (s : State) : (nextBroadcastCounter s).driver = s.driver := rfl
@[simp] theorem nextBroadcastCounter_arb (s : State) : (nextBroadcastCounter s).arb = s.arb := rfl
@[simp] theorem nextBroadcastCounter_ops (s : State) : (nextBroadcastCounter s).ops = s.ops := rfl
@[simp] theorem nextBroadcastCounter_result (s : State) : (nextBroadcastCounter s).result = s.result := rfl
@[simp] theorem nextBroadcastCounter_events (s : State) : (nextBroadcastCounter s).events = s.events := rfl

@[simp] theorem resetOp_cfg (s : State) : (resetOp s).cfg = s.cfg := rfl
@[simp] theorem resetOp_crc (s : State) : (resetOp s).crc = 0xFFFF := rfl
@[simp] theorem resetOp_buf (s : State) : (resetOp s).buf = s.buf := rfl
@[simp] theorem resetOp_cur (s : State) : (resetOp s).cur = 0 := rfl
@[simp] theorem resetOp_recording (s : State) : (resetOp s).recording = false := rfl
@[simp] theorem resetOp_record (s : State) : (resetOp s).record = [] := rfl
@[simp] theorem resetOp_cq (s : State) : (resetOp s).cq = s.cq := rfl
@[simp] theorem resetOp_cache (s : State) : (resetOp s).cache = s.cache := rfl
@[simp] theorem resetOp_lastMode (s : State) : (resetOp s).lastMode = s.lastMode := rfl
@[simp] theorem resetOp_bcast (s : State) : (resetOp s).bcast = s.bcast := rfl
@[simp] theorem resetOp_registrySealed (s : State) : (resetOp s).registrySealed = s.registrySealed := rfl
@[simp] theorem resetOp_free (s : State) : (resetOp s).free = s.free := rfl
@[simp] theorem resetOp_driver (s : State) : (resetOp s).driver = s.driver := rfl
@[simp] theorem resetOp_arb (s : State) : (resetOp s).arb = s.arb := rfl
@[simp] theorem resetOp_ops (s : State) : (resetOp s).ops = s.ops := rfl
@[simp] theorem resetOp_result (s : State) : (resetOp s).result = s.result := rfl
@[simp] theorem resetOp_events (s : State) : (resetOp s).events = s.events := rfl

/-! ## The tap -/

@[simp] theorem State.tap_cfg (t : Bool) (b : Byte) (s : State) : (State.tap t b s).cfg = s.cfg := by
  unfold State.tap; split <;> rfl
@[simp] theorem State.tap_crc (t : Bool) (b : Byte) (s : State) : (State.tap t b s).crc = s.crc := by
  unfold State.tap; split <;> rfl
@[simp] theorem State.tap_buf (t : Bool) (b : Byte) (s : State) : (State.tap t b s).buf = s.buf := by
  unfold State.tap; split <;> rfl
@[simp] theorem State.tap_cur (t : Bool) (b : Byte) (s : State) : (State.tap t b s).cur = s.cur := by
  unfold State.tap; split <;> rfl
@[simp] theorem State.tap_recording (t : Bool) (b : Byte) (s : State) : (State.tap t b s).recording = s.recording := by
  unfold State.tap; split <;> rfl
@[simp] theorem State.tap_record (t : Bool) (b : Byte) (s : State) :
    (State.tap t b s).record = if s.recording && t then s.record ++ [b] else s.record := by
  unfold State.tap; split <;> rfl
@[simp] theorem State.tap_cq (t : Bool) (b : Byte) (s : State) : (State.tap t b s).cq = s.cq := by
  unfold State.tap; split <;> rfl
@[simp] theorem State.tap_cache (t : Bool) (b : Byte) (s : State) : (State.tap t b s).cache = s.cache := by
  unfold State.tap; split <;> rfl
@[simp] theorem State.tap_lastMode (t : Bool) (b : Byte) (s : State) : (State.tap t b s).lastMode = s.lastMode := by
  unfold State.tap; split <;> rfl
@[simp] theorem State.tap_bcast (t : Bool) (b : Byte) (s : State) : (State.tap t b s).bcast = s.bcast := by
  unfold State.tap; split <;> rfl
@[simp] theorem State.tap_registrySealed (t : Bool) (b : Byte) (s : State) : (State.tap t b s).registrySealed = s.registrySealed := by
  unfold State.tap; split <;> rfl
@[simp] theorem State.tap_free (t : Bool) (b : Byte) (s : State) : (State.tap t b s).free = s.free := by
  unfold State.tap; split <;> rfl
@[simp] theorem State.tap_driver (t : Bool) (b : Byte) (s : State) : (State.tap t b s).driver = s.driver := by
  unfold State.tap; split <;> rfl
@[simp] theorem State.tap_arb (t : Bool) (b : Byte) (s : State) : (State.tap t b s).arb = s.arb := by
  unfold State.tap; split <;> rfl
@[simp] theorem State.tap_ops (t : Bool) (b : Byte) (s : State) : (State.tap t b s).ops = s.ops := by
  unfold State.tap; split <;> rfl
@[simp] theorem State.tap_result (t : Bool) (b : Byte) (s : State) : (State.tap t b s).result = s.result := by
  unfold State.tap; split <;> rfl
@[simp] theorem State.tap_events (t : Bool) (b : Byte) (s : State) : (State.tap t b s).events = s.events := by
  unfold State.tap; split <;> rfl

end Sys2Proof.Machine
end

