-- ==== Sys2Proof/Laws/Crc.lean ====
section
/-! SUPPORT. The CRC unit: bytes one after the other, and the two halves of the accumulator. -/

namespace Sys2Proof.Machine

open Sys2Proof

@[simp] theorem crcBytes_nil (c : Word) : crcBytes c [] = c := rfl
@[simp] theorem crcBytes_cons (c : Word) (b : Byte) (bs : List Byte) : crcBytes c (b :: bs) = crcBytes (crcByte c b) bs := rfl

theorem crcBytes_append (c : Word) (bs cs : List Byte) : crcBytes c (bs ++ cs) = crcBytes (crcBytes c bs) cs :=
  List.foldl_append

@[simp] theorem crcOfBytes_low_high (c : Word) : crcOfBytes (crcLow c) (crcHigh c) = c := by
  unfold crcOfBytes crcLow crcHigh
  ext i hi
  simp only [BitVec.getElem_append, BitVec.getElem_extractLsb', Nat.zero_add]
  split
  · simp [BitVec.getLsbD_eq_getElem, hi]
  · have : 8 + (i - 8) = i := by omega
    simp [this, BitVec.getLsbD_eq_getElem, hi]

/-- The eight iterations are injective: each one can be undone by the bit it shifted out. -/
theorem crcShift_injective : Function.Injective crcShift := by
  intro a b h
  have key : ∀ c : Word, (crcShift c).getLsbD 15 = c.getLsbD 0 := by
    intro c
    unfold crcShift
    split
    · rename_i hc; simp [hc]
    · rename_i hc; rw [Bool.eq_false_iff.mpr hc]; simp
  have h0 : a.getLsbD 0 = b.getLsbD 0 := by rw [← key a, ← key b, h]
  have hs : a >>> 1 = b >>> 1 := by
    unfold crcShift at h
    rw [h0] at h
    split at h
    · have h' := congrArg (· ^^^ (0xA001 : Word)) h
      simpa only [BitVec.xor_assoc, BitVec.xor_self, BitVec.xor_zero] using h'
    · exact h
  apply BitVec.eq_of_getLsbD_eq
  intro i hi
  cases i with
  | zero => exact h0
  | succ i =>
    have := congrArg (fun x : Word => x.getLsbD i) hs
    simpa [BitVec.getLsbD_ushiftRight, Nat.add_comm] using this

theorem crcShifts_injective (n : Nat) : Function.Injective (crcShifts n) := by
  induction n with
  | zero => exact fun _ _ h => h
  | succ n ih => exact fun _ _ h => crcShift_injective (ih h)

end Sys2Proof.Machine
end

