-- ==== Sys2Proof/Laws/Ops.lean ====
section
/-! SUPPORT. One lemma per shared operation of Machine/Ops.lean: how an operation ends, what `finish` makes of it, the word
buffer, the two maps and the free cursor. -/

namespace Sys2Proof.Machine

open Sys2Proof

/-! ## How an operation ends -/

@[simp] theorem Ran.andThen_ok {α β : Type} (v : α) (s : State) (k : α → State → Ran β) :
    (Ran.ok v s).andThen k = k v s := rfl
@[simp] theorem Ran.andThen_err {α β : Type} (e : Err) (s : State) (k : α → State → Ran β) :
    (Ran.err e s : Ran α).andThen k = .err e s := rfl
@[simp] theorem Ran.andThen_stop {α β : Type} (r : Refusal) (k : α → State → Ran β) :
    (Ran.stop r : Ran α).andThen k = .stop r := rfl
@[simp] theorem Ran.map_ok {α β : Type} (v : α) (s : State) (f : α → β) : (Ran.ok v s).map f = .ok (f v) s := rfl
@[simp] theorem Ran.map_err {α β : Type} (e : Err) (s : State) (f : α → β) : (Ran.err e s : Ran α).map f = .err e s := rfl
@[simp] theorem Ran.map_stop {α β : Type} (r : Refusal) (f : α → β) : (Ran.stop r : Ran α).map f = .stop r := rfl
@[simp] theorem Ran.noValue_ok (s : State) : (Ran.ok () s).noValue = .ok .none s := rfl
@[simp] theorem Ran.noValue_err (e : Err) (s : State) : (Ran.err e s : Ran Unit).noValue = .err e s := rfl
@[simp] theorem Ran.noValue_stop (r : Refusal) : (Ran.stop r : Ran Unit).noValue = .stop r := rfl
@[simp] theorem raise_eq {α : Type} (e : Err) (s : State) : (raise e s : Ran α) = .err e s := rfl
@[simp] theorem refuse_eq {α : Type} (r : Refusal) : (refuse r : Ran α) = .stop r := rfl

theorem Ran.andThen_assoc {α β γ : Type} (r : Ran α) (k : α → State → Ran β) (l : β → State → Ran γ) :
    (r.andThen k).andThen l = r.andThen fun v s => (k v s).andThen l := by
  cases r <;> rfl

theorem Ran.map_andThen {α β γ : Type} (r : Ran α) (f : α → β) (k : β → State → Ran γ) :
    (r.map f).andThen k = r.andThen fun v s => k (f v) s := by
  cases r <;> rfl

theorem Ran.andThen_eq_ok {α β : Type} {r : Ran α} {k : α → State → Ran β} {w : β} {t : State} :
    r.andThen k = .ok w t ↔ ∃ v s, r = .ok v s ∧ k v s = .ok w t := by
  cases r <;> simp

theorem Ran.map_eq_ok {α β : Type} {r : Ran α} {f : α → β} {w : β} {t : State} :
    r.map f = .ok w t ↔ ∃ v, r = .ok v t ∧ f v = w := by
  cases r <;> simp [and_comm]

theorem Ran.andThen_eq_err {α β : Type} {r : Ran α} {k : α → State → Ran β} {e : Err} {t : State} :
    r.andThen k = .err e t ↔ r = .err e t ∨ ∃ v s, r = .ok v s ∧ k v s = .err e t := by
  cases r <;> simp

/-- Whatever the end, the state it leaves satisfies `P`. -/
def Ran.Leaves {α : Type} (P : State → Prop) (r : Ran α) : Prop :=
  match r with
  | .ok _ s => P s
  | .err _ s => P s
  | .stop _ => True

@[simp] theorem Ran.leaves_ok {α : Type} {P : State → Prop} (v : α) (s : State) : (Ran.ok v s).Leaves P ↔ P s := Iff.rfl
@[simp] theorem Ran.leaves_err {α : Type} {P : State → Prop} (e : Err) (s : State) :
    (Ran.err e s : Ran α).Leaves P ↔ P s := Iff.rfl
@[simp] theorem Ran.leaves_stop {α : Type} {P : State → Prop} (r : Refusal) : (Ran.stop r : Ran α).Leaves P ↔ True := Iff.rfl

@[simp] theorem Ran.leaves_map {α β : Type} {P : State → Prop} {r : Ran α} {f : α → β} :
    (r.map f).Leaves P ↔ r.Leaves P := by
  cases r <;> rfl

@[simp] theorem Ran.leaves_noValue {P : State → Prop} {r : Ran Unit} : r.noValue.Leaves P ↔ r.Leaves P := Ran.leaves_map

theorem Ran.leaves_ite {α : Type} {P : State → Prop} {c : Prop} [Decidable c] {x y : Ran α} :
    (if c then x else y).Leaves P ↔ (c → x.Leaves P) ∧ (¬c → y.Leaves P) := by
  by_cases h : c <;> simp [h]

theorem Ran.Leaves.andThen {α β : Type} {P Q : State → Prop} {r : Ran α} {k : α → State → Ran β} (h : r.Leaves P)
    (hk : ∀ v s, P s → (k v s).Leaves Q) (he : ∀ s, P s → Q s) : (r.andThen k).Leaves Q := by
  cases r with
  | ok v s => exact hk v s h
  | err e s => exact he s h
  | stop x => trivial

theorem Ran.Leaves.mono {α : Type} {P Q : State → Prop} {r : Ran α} (h : r.Leaves P) (hPQ : ∀ s, P s → Q s) :
    r.Leaves Q := by
  cases r with
  | ok v s => exact hPQ s h
  | err e s => exact hPQ s h
  | stop x => trivial

/-- The operation has a next state: it is no refusal. -/
def Ran.Ends {α : Type} (r : Ran α) : Prop := ∀ x, r ≠ .stop x

@[simp] theorem Ran.ends_ok {α : Type} (v : α) (s : State) : (Ran.ok v s).Ends ↔ True := by simp [Ran.Ends]
@[simp] theorem Ran.ends_err {α : Type} (e : Err) (s : State) : (Ran.err e s : Ran α).Ends ↔ True := by simp [Ran.Ends]
@[simp] theorem Ran.ends_stop {α : Type} (r : Refusal) : (Ran.stop r : Ran α).Ends ↔ False := by simp [Ran.Ends]
@[simp] theorem Ran.ends_map {α β : Type} {r : Ran α} {f : α → β} : (r.map f).Ends ↔ r.Ends := by cases r <;> simp
@[simp] theorem Ran.ends_noValue {r : Ran Unit} : r.noValue.Ends ↔ r.Ends := Ran.ends_map

theorem Ran.Ends.andThen {α β : Type} {r : Ran α} {k : α → State → Ran β} (h : r.Ends)
    (hk : ∀ v s, r = .ok v s → (k v s).Ends) : (r.andThen k).Ends := by
  cases r with
  | ok v s => exact hk v s rfl
  | err e s => simp
  | stop x => simp at h

/-! ## `finish` -/

@[simp] theorem finish_ok (v : Value) (s : State) : finish (.ok v s) = .next (s.complete (.ok v)) := rfl
@[simp] theorem finish_err (e : Err) (s : State) : finish (.err e s) = .next (s.complete (.err e)) := rfl
@[simp] theorem finish_stop (r : Refusal) : finish (.stop r) = .refused r := rfl

/-- Everything a finished operation can be when it has a next state. -/
theorem finish_eq_next {r : Ran Value} {t : State} (h : finish r = .next t) :
    (∃ v s, r = .ok v s ∧ t = s.complete (.ok v)) ∨ (∃ e s, r = .err e s ∧ t = s.complete (.err e)) := by
  cases r with
  | ok v s => exact .inl ⟨v, s, rfl, by simpa using h.symm⟩
  | err e s => exact .inr ⟨e, s, rfl, by simpa using h.symm⟩
  | stop x => simp at h

/-- The state under a finished operation satisfies what the operation leaves. -/
theorem finish_leaves {P : State → Prop} {r : Ran Value} {t : State} (h : finish r = .next t) (hr : r.Leaves P) :
    ∃ x s, t = s.complete x ∧ P s := by
  obtain ⟨v, s, rfl, rfl⟩ | ⟨e, s, rfl, rfl⟩ := finish_eq_next h
  · exact ⟨_, s, rfl, hr⟩
  · exact ⟨_, s, rfl, hr⟩

theorem finish_next_of_ends {r : Ran Value} (h : r.Ends) : ∃ t, finish r = .next t := by
  cases r with
  | ok v s => exact ⟨_, rfl⟩
  | err e s => exact ⟨_, rfl⟩
  | stop x => simp at h

/-! ## The word buffer -/

@[simp] theorem memory_read_eq (m : Memory) (i : Nat) : Memory.read m i = m[i]? := rfl

theorem memory_wf_iff {capacity : Option Nat} {m : Memory} :
    Memory.wf capacity m = true ↔ ∀ n, capacity = some n → m.length ≤ n := by
  cases capacity <;> simp [Memory.wf]

/-- `MemWrite` keeps the length, so it keeps the canonical form. -/
theorem memory_write_wf {capacity : Option Nat} {m m' : Memory} {i : Nat} {w : Word} (h : Memory.wf capacity m = true)
    (hw : Memory.write m i w = some m') : Memory.wf capacity m' = true := by
  unfold Memory.write at hw
  split at hw
  · cases hw; simpa [memory_wf_iff] using memory_wf_iff.mp h
  · cases hw

theorem memory_read_write {m m' : Memory} {i j : Nat} {w : Word} (hw : Memory.write m i w = some m') :
    Memory.read m' j = if j = i then some w else Memory.read m j := by
  unfold Memory.write at hw
  split at hw
  · cases hw
    by_cases hj : j = i
    · subst hj; simp [*]
    · simp [hj, List.getElem?_set_ne (Ne.symm hj)]
  · cases hw

theorem emit_of_unbounded {w : Word} {s : State} (h : s.cfg.bufWords = none) :
    emit w s = .ok () (s.setBuf (s.buf ++ [w])) := by simp [emit, h]

theorem emit_of_full {w : Word} {s : State} (h : s.cfg.bufWords = some s.buf.length) :
    emit w s = .err (.bufferFull s.buf.length) s := by simp [emit, h]

theorem emit_of_room {w : Word} {s : State} (h : s.cfg.bufWords ≠ some s.buf.length) :
    emit w s = .ok () (s.setBuf (s.buf ++ [w])) := by simp [emit, h]

theorem emit_ends (w : Word) (s : State) : (emit w s).Ends := by
  unfold emit; split <;> simp

/-- `Emit` keeps the canonical form of the memory. -/
theorem emit_keeps_wf (w : Word) (s : State) (h : Memory.wf s.cfg.bufWords s.buf = true) :
    (emit w s).Leaves fun t => Memory.wf t.cfg.bufWords t.buf = true := by
  unfold emit
  split
  · simpa using h
  · rename_i hne
    simp only [Ran.leaves_ok, State.setBuf_cfg, State.setBuf_buf]
    rw [memory_wf_iff] at h ⊢
    intro n hn
    have hle := h n hn
    have : s.buf.length ≠ n := fun hc => hne (by rw [hn, hc])
    simp; omega

theorem seat_eq (ws : List Word) (s : State) :
    seat ws s = if Memory.wf s.cfg.bufWords ws then .ok () { s with buf := ws, cur := 0, crc := 0xFFFF }
      else .err (.bufferFull ws.length) s := rfl

theorem firstWords_of_le {ws : List Word} {n : Nat} (free : Nat) (h : n ≤ ws.length) : firstWords ws n free = ws.take n := by
  simp [firstWords, Nat.sub_eq_zero_of_le h]

@[simp] theorem length_firstWords (ws : List Word) (n free : Nat) : (firstWords ws n free).length = n := by
  simp [firstWords]; omega

/-! ## Maps -/

theorem Table.wf_iff {β : Type} {m : Table β} : Table.wf m = true ↔ List.Pairwise (fun a b => a.1 < b.1) m := by
  simp [Table.wf]

theorem Table.get_none_of_lt {β : Type} {m : Table β} {q : Nat} (h : ∀ p ∈ m, q < p.1) : Table.get m q = none := by
  induction m with
  | nil => rfl
  | cons p rest ih =>
    obtain ⟨k, v⟩ := p
    have hk : q < k := h (k, v) (by simp)
    simp only [Table.get]
    rw [if_neg (by omega)]
    exact ih fun p hp => h p (by simp [hp])

theorem Table.get_set_same {β : Type} (m : Table β) (q : Nat) (x : β) : Table.get (Table.set m q x) q = some x := by
  induction m with
  | nil => simp [Table.set, Table.get]
  | cons p rest ih =>
    obtain ⟨k, v⟩ := p
    unfold Table.set
    split
    · simp [Table.get]
    · split
      · simp [Table.get]
      · simp only [Table.get]
        rw [if_neg (by omega)]
        exact ih

theorem Table.get_set_other {β : Type} (m : Table β) {q r : Nat} (x : β) (h : r ≠ q) :
    Table.get (Table.set m q x) r = Table.get m r := by
  induction m with
  | nil => simp [Table.set, Table.get, Ne.symm h]
  | cons p rest ih =>
    obtain ⟨k, v⟩ := p
    unfold Table.set
    split
    · simp [Table.get, Ne.symm h]
    · split
      · subst_vars; simp [Table.get, Ne.symm h]
      · simp only [Table.get, ih]

theorem Table.mem_set {β : Type} {m : Table β} {q : Nat} {x : β} {p : Nat × β} (h : p ∈ Table.set m q x) :
    p = (q, x) ∨ p ∈ m := by
  induction m with
  | nil => simpa [Table.set] using h
  | cons a rest ih =>
    obtain ⟨k, v⟩ := a
    unfold Table.set at h
    split at h
    · simpa using h
    · split at h
      · simp only [List.mem_cons] at h ⊢; tauto
      · simp only [List.mem_cons] at h ⊢
        obtain h | h := h
        · exact .inr (.inl h)
        · exact (ih h).imp_right .inr

/-- A write keeps the canonical form of a map. -/
theorem Table.set_wf {β : Type} {m : Table β} (q : Nat) (x : β) (h : Table.wf m = true) :
    Table.wf (Table.set m q x) = true := by
  rw [Table.wf_iff] at h ⊢
  induction m with
  | nil => simp [Table.set]
  | cons a rest ih =>
    obtain ⟨k, v⟩ := a
    rw [List.pairwise_cons] at h
    unfold Table.set
    split
    · rename_i hq
      refine List.pairwise_cons.mpr ⟨?_, List.pairwise_cons.mpr h⟩
      intro b hb
      rcases List.mem_cons.mp hb with rfl | hb
      · exact hq
      · have := h.1 b hb; simp only at this ⊢; omega
    · split
      · rename_i hk; subst hk; exact List.pairwise_cons.mpr ⟨h.1, h.2⟩
      · refine List.pairwise_cons.mpr ⟨?_, ih h.2⟩
        intro b hb
        rcases Table.mem_set hb with rfl | hb
        · simp only; omega
        · exact h.1 b hb

theorem cacheKey_inj {a f a' f' : Byte} (h : cacheKey a f = cacheKey a' f') : a = a' ∧ f = f' := by
  unfold cacheKey at h
  have := f.isLt; have := f'.isLt
  constructor <;> (apply BitVec.eq_of_toNat_eq; omega)

theorem cached_setCached_same (a f : Byte) (x : List Byte) (s : State) : (s.setCached a f x).cached a f = some x :=
  Table.get_set_same _ _ _

theorem cached_setCached_other {a f a' f' : Byte} (x : List Byte) (s : State) (h : (a', f') ≠ (a, f)) :
    (s.setCached a f x).cached a' f' = s.cached a' f' :=
  Table.get_set_other _ _ fun hk => h (by simpa using cacheKey_inj hk)

theorem modeOf_setModeOf_same (a m : Byte) (s : State) : (s.setModeOf a m).modeOf a = some m := Table.get_set_same _ _ _

theorem modeOf_setModeOf_other {a a' : Byte} (m : Byte) (s : State) (h : a' ≠ a) :
    (s.setModeOf a m).modeOf a' = s.modeOf a' :=
  Table.get_set_other _ _ fun hk => h (BitVec.eq_of_toNat_eq hk)

end Sys2Proof.Machine
end

