-- ==== Sys2Proof/Laws/Read.lean ====
section
/-! SUPPORT. What the read path can do. -/

namespace Sys2Proof.Machine

open Sys2Proof

/-- Everything a read can do: move the cursor forward within the buffer, change the CRC and the recorder. -/
structure ReadOn (s t : State) : Prop where
  eq : ∃ k c b r, t = { s with cur := s.cur + k, crc := c, recording := b, record := r }
  within : s.cur ≤ s.buf.length → t.cur ≤ t.buf.length

theorem ReadOn.refl (s : State) : ReadOn s s := ⟨⟨0, s.crc, s.recording, s.record, by simp⟩, id⟩

theorem ReadOn.trans {s t u : State} (h : ReadOn s t) (k : ReadOn t u) : ReadOn s u := by
  obtain ⟨⟨n, c, b, r, rfl⟩, hw⟩ := h
  obtain ⟨⟨n', c', b', r', rfl⟩, kw⟩ := k
  exact ⟨⟨n + n', c', b', r', by simp [Nat.add_assoc]⟩, fun h => kw (hw h)⟩

theorem Ran.Leaves.thenRead {s : State} {α β : Type} {r : Ran α} {k : α → State → Ran β} (h : r.Leaves (ReadOn s))
    (hk : ∀ v t, (k v t).Leaves (ReadOn t)) : (r.andThen k).Leaves (ReadOn s) :=
  h.andThen (fun v t ht => (hk v t).mono fun _ hu => ht.trans hu) fun _ ht => ht

theorem fetch_eq_some {s : State} {w : Word} (h : s.fetch = some w) : s.cur < s.buf.length ∧ s.buf[s.cur]? = some w := by
  have h' : s.buf[s.cur]? = some w := h
  exact ⟨(List.getElem?_eq_some_iff.mp h').1, h'⟩

theorem fetch_eq_none {s : State} : s.fetch = none ↔ s.buf.length ≤ s.cur := by
  simp [State.fetch]

theorem takeByte_eq (tapped : Bool) (w : Word) (s : State) :
    takeByte tapped w s = (s.cfg.decByte w, { s with
      cur := s.cur + 1, crc := crcByte s.crc (s.cfg.decByte w)
      record := if s.recording && tapped then s.record ++ [s.cfg.decByte w] else s.record }) := by
  unfold takeByte State.tap State.crcAdd State.advance State.setCur State.setCrc State.setRecord
  dsimp only
  split <;> simp [*]

theorem readByte_of_word {tapped : Bool} {s : State} {w : Word} (h : s.fetch = some w) :
    readByte tapped s = .ok (s.cfg.decByte w) { s with
      cur := s.cur + 1, crc := crcByte s.crc (s.cfg.decByte w)
      record := if s.recording && tapped then s.record ++ [s.cfg.decByte w] else s.record } := by
  simp [readByte, h, takeByte_eq]

theorem readByte_of_end {tapped : Bool} {s : State} (h : s.fetch = none) :
    readByte tapped s = .err (.endOfBuffer s.cur) s := by
  simp [readByte, h]

theorem readByteNoCrc_of_word {s : State} {w : Word} (h : s.fetch = some w) :
    readByteNoCrc s = .ok (s.cfg.decByte w) { s with cur := s.cur + 1 } := by
  simp [readByteNoCrc, h, State.advance, State.setCur]

theorem readByteNoCrc_of_end {s : State} (h : s.fetch = none) :
    readByteNoCrc s = .err (.endOfBuffer s.cur) s := by
  simp [readByteNoCrc, h]

theorem readByte_readOn (tapped : Bool) (s : State) : (readByte tapped s).Leaves (ReadOn s) := by
  cases h : s.fetch with
  | none => rw [readByte_of_end h]; exact ReadOn.refl s
  | some w =>
    rw [readByte_of_word h]
    exact ⟨⟨1, _, s.recording, _, rfl⟩, fun _ => (fetch_eq_some h).1⟩

theorem readByteNoCrc_readOn (s : State) : (readByteNoCrc s).Leaves (ReadOn s) := by
  cases h : s.fetch with
  | none => rw [readByteNoCrc_of_end h]; exact ReadOn.refl s
  | some w =>
    rw [readByteNoCrc_of_word h]
    exact ⟨⟨1, s.crc, s.recording, s.record, rfl⟩, fun _ => (fetch_eq_some h).1⟩

theorem readBytes_readOn (n : Nat) (s : State) : (readBytes n s).Leaves (ReadOn s) := by
  induction n generalizing s with
  | zero => exact ReadOn.refl s
  | succ n ih => exact (readByte_readOn true s).thenRead fun _ t => by simpa using ih t

theorem readWide_readOn (k : WideKind) (s : State) : (readWide k s).Leaves (ReadOn s) := by
  simpa [readWide] using readBytes_readOn _ s

theorem readScalar_readOn (k : ReadKind) (s : State) : (readScalar k s).Leaves (ReadOn s) := by
  cases k with
  | u8 => simpa [readScalar] using readByte_readOn true s
  | s8 => simpa [readScalar] using readByte_readOn true s
  | wide k => exact readWide_readOn k s

theorem readString_readOn (n : Nat) (s : State) : (readString n s).Leaves (ReadOn s) := by
  simpa [readString] using readBytes_readOn n s

theorem crcReset_readOn (s : State) : ReadOn s s.crcReset := ⟨⟨0, 0xFFFF, s.recording, s.record, rfl⟩, id⟩
theorem setRecording_readOn (b : Bool) (s : State) : ReadOn s (s.setRecording b) := ⟨⟨0, s.crc, b, s.record, rfl⟩, id⟩
theorem recordChanges_readOn (s : State) : ReadOn s (recordChanges s) := ⟨⟨0, s.crc, true, [], rfl⟩, id⟩
theorem pauseRecordChanges_readOn (s : State) : ReadOn s (pauseRecordChanges s) := ⟨⟨0, s.crc, false, s.record, rfl⟩, id⟩

theorem checkCrc_readOn (s : State) : (checkCrc s).Leaves (ReadOn s) := by
  unfold checkCrc
  refine ((readByteNoCrc_readOn _).mono fun _ h => (setRecording_readOn false s).trans h).thenRead fun lo t => ?_
  refine (readByteNoCrc_readOn t).thenRead fun hi u => ?_
  split
  · exact crcReset_readOn u
  · exact ReadOn.refl u

/-! ## Reads have an end -/

theorem readByte_ends (tapped : Bool) (s : State) : (readByte tapped s).Ends := by
  unfold readByte; split <;> simp

theorem readByteNoCrc_ends (s : State) : (readByteNoCrc s).Ends := by
  unfold readByteNoCrc; split <;> simp

theorem readBytes_ends (n : Nat) (s : State) : (readBytes n s).Ends := by
  induction n generalizing s with
  | zero => simp [readBytes]
  | succ n ih => exact (readByte_ends true s).andThen fun _ t _ => by simpa using ih t

theorem readScalar_ends (k : ReadKind) (s : State) : (readScalar k s).Ends := by
  cases k with
  | u8 => simpa [readScalar] using readByte_ends true s
  | s8 => simpa [readScalar] using readByte_ends true s
  | wide k => simpa [readScalar, readWide] using readBytes_ends _ s

theorem readString_ends (n : Nat) (s : State) : (readString n s).Ends := by simpa [readString] using readBytes_ends n s

theorem checkCrc_ends (s : State) : (checkCrc s).Ends := by
  unfold checkCrc
  refine (readByteNoCrc_ends _).andThen fun _ t _ => (readByteNoCrc_ends t).andThen fun _ u _ => ?_
  split <;> simp

/-! ## Reads of bytes that are there, exactly -/

/-- The words ahead of the cursor decode to a list that begins with `b`. -/
theorem fetch_of_ahead {s : State} {b : Byte} {bs : List Byte} (h : (b :: bs) <+: (s.buf.drop s.cur).map s.cfg.decByte) :
    ∃ w, s.fetch = some w ∧ s.cfg.decByte w = b ∧ bs <+: (s.buf.drop (s.cur + 1)).map s.cfg.decByte := by
  cases hd : s.buf.drop s.cur with
  | nil => rw [hd] at h; simp at h
  | cons w rest =>
    rw [hd, List.map_cons, List.cons_prefix_cons] at h
    refine ⟨w, ?_, h.1.symm, ?_⟩
    · have : (s.buf.drop s.cur)[0]? = some w := by rw [hd]; rfl
      simpa [State.fetch] using this
    · have : s.buf.drop (s.cur + 1) = rest := by
        rw [← List.drop_drop, hd]; rfl
      rw [this]; exact h.2

theorem readBytes_of_ahead {bs : List Byte} {s : State} (h : bs <+: (s.buf.drop s.cur).map s.cfg.decByte) :
    readBytes bs.length s = .ok bs { s with
      cur := s.cur + bs.length, crc := crcBytes s.crc bs, record := if s.recording then s.record ++ bs else s.record } := by
  induction bs generalizing s with
  | nil => simp [readBytes]
  | cons b bs ih =>
    obtain ⟨w, hw, hb, hrest⟩ := fetch_of_ahead h
    simp only [List.length_cons, readBytes, readByte_of_word hw, Ran.andThen_ok, hb]
    rw [ih (by simpa using hrest)]
    simp only [Ran.map_ok, Bool.and_true, crcBytes_cons]
    congr 2
    · omega
    · split <;> simp

theorem checkCrc_of_ahead {lo hi : Byte} {s : State} (h : [lo, hi] <+: (s.buf.drop s.cur).map s.cfg.decByte) :
    checkCrc s = if crcOfBytes lo hi = s.crc then .ok () { s with cur := s.cur + 2, recording := false, crc := 0xFFFF }
      else .err (.crcError s.crc (crcOfBytes lo hi)) { s with cur := s.cur + 2, recording := false } := by
  obtain ⟨w, hw, rfl, hrest⟩ := fetch_of_ahead h
  have h2 : [hi] <+: ((({ s with recording := false, cur := s.cur + 1 } : State)).buf.drop (s.cur + 1)).map s.cfg.decByte := hrest
  obtain ⟨w', hw', rfl, -⟩ := fetch_of_ahead (s := { s with recording := false, cur := s.cur + 1 }) h2
  unfold checkCrc
  rw [readByteNoCrc_of_word (s := s.setRecording false) hw]
  simp only [Ran.andThen_ok]
  rw [readByteNoCrc_of_word (by simpa [State.setRecording] using hw')]
  rfl

/-- The CRC of what was read, low byte first: the check succeeds. -/
theorem checkCrc_of_good {s : State} (h : [crcLow s.crc, crcHigh s.crc] <+: (s.buf.drop s.cur).map s.cfg.decByte) :
    checkCrc s = .ok () { s with cur := s.cur + 2, recording := false, crc := 0xFFFF } := by
  rw [checkCrc_of_ahead h, if_pos (crcOfBytes_low_high s.crc)]

end Sys2Proof.Machine
end

