-- ==== Sys2Proof/Laws/Dispatch.lean ====
section
/-! SUPPORT. What the decoders, one frame and the dispatch loop can do. -/

namespace Sys2Proof.Machine

open Sys2Proof

/-! ## Decoder steps -/

/-- Everything decoding a reply of function `f` from address `a` can do, an unknown function apart: it moves the cursor forward
within the buffer, delivers events, and writes the two tables under its own keys only. -/
structure Decoded (f a : Byte) (s t : State) : Prop where
  cfg : t.cfg = s.cfg
  buf : t.buf = s.buf
  cq : t.cq = s.cq
  bcast : t.bcast = s.bcast
  registrySealed : t.registrySealed = s.registrySealed
  driver : t.driver = s.driver
  arb : t.arb = s.arb
  ops : t.ops = s.ops
  forward : s.cur ≤ t.cur
  within : s.cur ≤ s.buf.length → t.cur ≤ t.buf.length
  events : s.events <+: t.events
  modes : ∀ a', a' ≠ a → t.modeOf a' = s.modeOf a'
  prints : ∀ a' f', (a', f') ≠ (a, f) → t.cached a' f' = s.cached a' f'
  cacheForm : Table.wf s.cache = true → Table.wf t.cache = true
  modeForm : Table.wf s.lastMode = true → Table.wf t.lastMode = true

theorem Decoded.refl (f a : Byte) (s : State) : Decoded f a s s :=
  ⟨rfl, rfl, rfl, rfl, rfl, rfl, rfl, rfl, Nat.le_refl _, id, List.prefix_refl _, fun _ _ => rfl, fun _ _ _ => rfl, id, id⟩

theorem Decoded.trans {f a : Byte} {s t u : State} (h : Decoded f a s t) (k : Decoded f a t u) : Decoded f a s u where
  cfg := k.cfg.trans h.cfg
  buf := k.buf.trans h.buf
  cq := k.cq.trans h.cq
  bcast := k.bcast.trans h.bcast
  registrySealed := k.registrySealed.trans h.registrySealed
  driver := k.driver.trans h.driver
  arb := k.arb.trans h.arb
  ops := k.ops.trans h.ops
  forward := h.forward.trans k.forward
  within := fun w => k.within (h.within w)
  events := h.events.trans k.events
  modes := fun a' ha => (k.modes a' ha).trans (h.modes a' ha)
  prints := fun a' f' ha => (k.prints a' f' ha).trans (h.prints a' f' ha)
  cacheForm := fun w => k.cacheForm (h.cacheForm w)
  modeForm := fun w => k.modeForm (h.modeForm w)

theorem ReadOn.decoded {f a : Byte} {s t : State} (h : ReadOn s t) : Decoded f a s t := by
  obtain ⟨⟨k, c, b, r, rfl⟩, hw⟩ := h
  exact ⟨rfl, rfl, rfl, rfl, rfl, rfl, rfl, rfl, Nat.le_add_right _ _, hw, List.prefix_refl _, fun _ _ => rfl,
    fun _ _ _ => rfl, id, id⟩

theorem deliver_decoded (f a : Byte) (e : Event) (s : State) : Decoded f a s (s.deliver e) :=
  ⟨rfl, rfl, rfl, rfl, rfl, rfl, rfl, rfl, Nat.le_refl _, id, List.prefix_append _ _, fun _ _ => rfl, fun _ _ _ => rfl,
    id, id⟩

theorem setModeOf_decoded (f a m : Byte) (s : State) : Decoded f a s (s.setModeOf a m) :=
  ⟨rfl, rfl, rfl, rfl, rfl, rfl, rfl, rfl, Nat.le_refl _, id, List.prefix_refl _,
    fun _ h => modeOf_setModeOf_other m s h, fun _ _ _ => rfl, id, fun h => Table.set_wf _ _ h⟩

theorem setCached_decoded (f a : Byte) (r : List Byte) (s : State) : Decoded f a s (s.setCached a f r) :=
  ⟨rfl, rfl, rfl, rfl, rfl, rfl, rfl, rfl, Nat.le_refl _, id, List.prefix_refl _, fun _ _ => rfl,
    fun _ _ h => cached_setCached_other r s h, fun h => Table.set_wf _ _ h, id⟩

theorem responseMatchCached_eq (a f : Byte) (s : State) :
    responseMatchCached a f s = (decide (s.cached a f = some s.record), s.setCached a f s.record) := rfl

/-- Everything the number of a name can be: the number it is bound to, a free one, or none because it is not bound. -/
theorem boundNumber_cases (bound : Bound) (n : FieldName) (s : State) :
    (Bound.get bound n = none ∧ boundNumber bound n s = .stop .decoderOutsideGrammar) ∨
    (∃ v x, Bound.get bound n = some v ∧ v.int? = some x ∧ boundNumber bound n s = .ok x s) ∨
    (∃ v, Bound.get bound n = some v ∧ v.int? = none ∧
      boundNumber bound n s = .ok (Config.freeNumber s.free) (s.takeFree 1)) := by
  unfold boundNumber
  cases Bound.get bound n with
  | none => exact .inl ⟨rfl, rfl⟩
  | some v => cases h : v.int? <;> simp [h]

theorem takeFree_decoded (f a : Byte) (n : Nat) (s : State) : Decoded f a s (s.takeFree n) :=
  ⟨rfl, rfl, rfl, rfl, rfl, rfl, rfl, rfl, Nat.le_refl _, id, List.prefix_refl _, fun _ _ => rfl, fun _ _ _ => rfl, id, id⟩

theorem boundNumber_decoded (f a : Byte) (bound : Bound) (n : FieldName) (s : State) :
    (boundNumber bound n s).Leaves (Decoded f a s) := by
  obtain ⟨-, h⟩ | ⟨_, _, -, -, h⟩ | ⟨_, -, -, h⟩ := boundNumber_cases bound n s
  · rw [h]; trivial
  · rw [h]; exact Decoded.refl f a s
  · rw [h]; exact takeFree_decoded f a 1 s

theorem stringLength_decoded (f a : Byte) (len : StringLength) (bound : Bound) (s : State) :
    (stringLength len bound s).Leaves (Decoded f a s) := by
  cases len with
  | const k => exact Decoded.refl f a s
  | minus v k => simpa [stringLength] using boundNumber_decoded f a bound v s

theorem Ran.Leaves.thenDecode {f a : Byte} {s : State} {α β : Type} {r : Ran α} {k : α → State → Ran β}
    (h : r.Leaves (Decoded f a s)) (hk : ∀ v t, (k v t).Leaves (Decoded f a t)) : (r.andThen k).Leaves (Decoded f a s) :=
  h.andThen (fun v t ht => (hk v t).mono fun _ hu => ht.trans hu) fun _ ht => ht

theorem decoderStep_decoded (f a : Byte) (d : DecoderStep) (bound : Bound) (s : State) :
    (decoderStep f a d bound s).Leaves (Decoded f a s) := by
  cases d with
  | read k n => simpa [decoderStep] using (readScalar_readOn k s).mono fun _ h => h.decoded
  | readString len n =>
    refine (stringLength_decoded f a len bound s).thenDecode fun x t => ?_
    split
    · exact Decoded.refl f a t
    · simpa using (readString_readOn _ t).mono fun _ h => h.decoded
  | recordChanges => exact (recordChanges_readOn s).decoded
  | pauseRecord => exact (pauseRecordChanges_readOn s).decoded
  | checkCrc => simpa [decoderStep] using (checkCrc_readOn s).mono fun _ h => h.decoded
  | setMode n =>
    exact (boundNumber_decoded f a bound n s).thenDecode fun x t => setModeOf_decoded f a _ t
  | emit => exact deliver_decoded f a _ s
  | emitIfChanged =>
    simp only [decoderStep, responseMatchCached_eq]
    split
    · exact setCached_decoded f a _ s
    · exact (setCached_decoded f a _ s).trans (deliver_decoded f a _ _)

theorem runDecoder_decoded (f a : Byte) (ds : List DecoderStep) (bound : Bound) (s : State) :
    (runDecoder f a ds bound s).Leaves (Decoded f a s) := by
  induction ds generalizing bound s with
  | nil => exact Decoded.refl f a s
  | cons d ds ih =>
    exact (decoderStep_decoded f a d bound s).thenDecode fun b t => ih b t

theorem errorReply_decoded (e : Entry) (a f : Byte) (s : State) : (errorReply e a f s).Leaves (Decoded f a s) := by
  refine ((readByte_readOn true s).mono fun _ h => h.decoded).andThen (fun code t ht => ?_) fun _ h => h
  refine ((checkCrc_readOn t).mono fun _ h => ht.trans h.decoded).andThen (fun _ u hu => ?_) fun _ h => h
  cases e.handler with
  | none => exact hu
  | some h => exact hu.trans (deliver_decoded f a _ u)

/-! ## One frame -/

/-- Everything one frame of `(a, f)` can do once its header has been read, the cursor after an unknown function included: it takes
the head of the queue. -/
structure Replied (f a : Byte) (s t : State) : Prop where
  cfg : t.cfg = s.cfg
  buf : t.buf = s.buf
  cq : t.cq = s.cq.tail
  bcast : t.bcast = s.bcast
  registrySealed : t.registrySealed = s.registrySealed
  driver : t.driver = s.driver
  arb : t.arb = s.arb
  ops : t.ops = s.ops
  within : s.cur ≤ s.buf.length → t.cur ≤ t.buf.length
  events : s.events <+: t.events
  modes : ∀ a', a' ≠ a → t.modeOf a' = s.modeOf a'
  prints : ∀ a' f', (a', f') ≠ (a, f) → t.cached a' f' = s.cached a' f'
  cacheForm : Table.wf s.cache = true → Table.wf t.cache = true
  modeForm : Table.wf s.lastMode = true → Table.wf t.lastMode = true

theorem Decoded.replied {f a : Byte} {s t : State} (h : Decoded f a (s.setCq s.cq.tail) t) : Replied f a s t :=
  ⟨h.cfg, h.buf, h.cq, h.bcast, h.registrySealed, h.driver, h.arb, h.ops, h.within, h.events, h.modes, h.prints,
    h.cacheForm, h.modeForm⟩

theorem loseCursor_replied (f a : Byte) (s : State) : Replied f a s (s.setCq s.cq.tail).loseCursor :=
  ⟨rfl, rfl, rfl, rfl, rfl, rfl, rfl, rfl, fun _ => Nat.min_le_right _ _, List.prefix_refl _, fun _ _ => rfl,
    fun _ _ _ => rfl, id, id⟩

/-- Everything `QueueCheck` can do. -/
theorem queueCheck_cases (a f x : Byte) (s : State) :
    (s.cq = [] ∧ queueCheck a f x s = .err (.unmatchedFunction a f none) s) ∨
    (∃ q, s.cq = (a, x) :: q ∧ queueCheck a f x s = .ok () (s.setCq q)) ∨
    (∃ ea ef q, s.cq = (ea, ef) :: q ∧ (ea, ef) ≠ (a, x) ∧
      queueCheck a f x s = .err (.unmatchedFunction a f (some (ea, ef))) (s.setCq q)) := by
  unfold queueCheck
  cases hq : s.cq with
  | nil => exact .inl ⟨rfl, rfl⟩
  | cons p q =>
    obtain ⟨ea, ef⟩ := p
    by_cases h : ea = a ∧ ef = x
    · obtain ⟨rfl, rfl⟩ := h; exact .inr (.inl ⟨q, rfl, by simp⟩)
    · exact .inr (.inr ⟨ea, ef, q, rfl, by simpa using h, by simp [h]⟩)

/-- Everything steps 3c to 3e can do: a normal decoder, an error path, or an unknown function. -/
theorem decodeReply_cases (a f : Byte) (s : State) :
    (∃ e, s.cfg.normalEntry f = some e ∧ decodeReply a f s = runDecoder f a e.decoder [] s) ∨
    (∃ e, s.cfg.normalEntry f = none ∧ s.cfg.errorEntry f = some e ∧ decodeReply a f s = errorReply e a f s) ∨
    (s.cfg.normalEntry f = none ∧ s.cfg.errorEntry f = none ∧
      decodeReply a f s = .err (.unknownResponse a f) s.loseCursor) := by
  unfold decodeReply
  cases hn : s.cfg.normalEntry f with
  | some e => exact .inl ⟨e, rfl, rfl⟩
  | none =>
    cases he : s.cfg.errorEntry f with
    | some e => exact .inr (.inl ⟨e, rfl, rfl, rfl⟩)
    | none => exact .inr (.inr ⟨rfl, rfl, rfl⟩)

theorem frameBody_replied (a f : Byte) (s : State) : (frameBody a f s).Leaves (Replied f a s) := by
  unfold frameBody
  obtain ⟨hq, h⟩ | ⟨q, hq, h⟩ | ⟨ea, ef, q, hq, -, h⟩ := queueCheck_cases a f (expectedFunction s.cfg f) s
  · rw [h]
    simp only [Ran.andThen_err, Ran.leaves_err]
    exact Decoded.replied (by rw [hq]; have : s.setCq [].tail = s := by rw [List.tail_nil, ← hq]; rfl
                              rw [this]; exact Decoded.refl f a s)
  · rw [h]
    have hs : s.setCq q = s.setCq s.cq.tail := by rw [hq]; rfl
    rw [hs]
    simp only [Ran.andThen_ok]
    obtain ⟨e, -, h'⟩ | ⟨e, -, -, h'⟩ | ⟨-, -, h'⟩ := decodeReply_cases a f (s.setCq s.cq.tail)
    · rw [h']; exact (runDecoder_decoded f a _ _ _).mono fun _ h => h.replied
    · rw [h']; exact (errorReply_decoded e a f _).mono fun _ h => h.replied
    · rw [h']; exact loseCursor_replied f a s
  · rw [h]
    have hs : s.setCq q = s.setCq s.cq.tail := by rw [hq]; rfl
    rw [hs]
    exact Decoded.replied (Decoded.refl f a _)

/-! ## The dispatch loop -/

/-- Everything the dispatch loop can do. -/
structure Dispatched (s t : State) : Prop where
  cfg : t.cfg = s.cfg
  buf : t.buf = s.buf
  cq : t.cq <:+ s.cq
  bcast : t.bcast = s.bcast
  registrySealed : t.registrySealed = s.registrySealed
  driver : t.driver = s.driver
  arb : t.arb = s.arb
  ops : t.ops = s.ops
  within : s.cur ≤ s.buf.length → t.cur ≤ t.buf.length
  events : s.events <+: t.events
  cacheForm : Table.wf s.cache = true → Table.wf t.cache = true
  modeForm : Table.wf s.lastMode = true → Table.wf t.lastMode = true

theorem Dispatched.refl (s : State) : Dispatched s s :=
  ⟨rfl, rfl, List.suffix_refl _, rfl, rfl, rfl, rfl, rfl, id, List.prefix_refl _, id, id⟩

theorem Dispatched.trans {s t u : State} (h : Dispatched s t) (k : Dispatched t u) : Dispatched s u where
  cfg := k.cfg.trans h.cfg
  buf := k.buf.trans h.buf
  cq := k.cq.trans h.cq
  bcast := k.bcast.trans h.bcast
  registrySealed := k.registrySealed.trans h.registrySealed
  driver := k.driver.trans h.driver
  arb := k.arb.trans h.arb
  ops := k.ops.trans h.ops
  within := fun w => k.within (h.within w)
  events := h.events.trans k.events
  cacheForm := fun w => k.cacheForm (h.cacheForm w)
  modeForm := fun w => k.modeForm (h.modeForm w)

theorem Replied.dispatched {f a : Byte} {s t : State} (h : Replied f a s t) : Dispatched s t :=
  ⟨h.cfg, h.buf, by rw [h.cq]; exact List.tail_suffix _, h.bcast, h.registrySealed, h.driver, h.arb, h.ops, h.within,
    h.events, h.cacheForm, h.modeForm⟩

theorem ReadOn.dispatched {s t : State} (h : ReadOn s t) : Dispatched s t := by
  obtain ⟨⟨k, c, b, r, rfl⟩, hw⟩ := h
  exact ⟨rfl, rfl, List.suffix_refl _, rfl, rfl, rfl, rfl, rfl, hw, List.prefix_refl _, id, id⟩

theorem deliver_dispatched (e : Event) (s : State) : Dispatched s (s.deliver e) :=
  ⟨rfl, rfl, List.suffix_refl _, rfl, rfl, rfl, rfl, rfl, id, List.prefix_append _ _, id, id⟩

theorem Ran.Leaves.thenDispatch {s : State} {α β : Type} {r : Ran α} {k : α → State → Ran β} (h : r.Leaves (Dispatched s))
    (hk : ∀ v t, (k v t).Leaves (Dispatched t)) : (r.andThen k).Leaves (Dispatched s) :=
  h.andThen (fun v t ht => (hk v t).mono fun _ hu => ht.trans hu) fun _ ht => ht

theorem endOfBuffer_iff {s : State} : s.endOfBuffer = true ↔ s.buf.length ≤ s.cur := by simp [State.endOfBuffer]

theorem readHeader_readOn (s : State) : (readHeader s).Leaves (ReadOn s) :=
  (readByte_readOn false s).thenRead fun _ t => by simpa using readByte_readOn false t

theorem frameHead_readOn (s : State) : (frameHead s).Leaves (ReadOn s) := by
  unfold frameHead
  split
  · exact ReadOn.refl s
  · rename_i h
    split
    · refine ⟨⟨1, s.crc, s.recording, s.record, rfl⟩, fun _ => ?_⟩
      have : ¬ s.buf.length ≤ s.cur := fun hc => h (endOfBuffer_iff.mpr hc)
      show s.cur + 1 ≤ s.buf.length
      omega
    · simpa using readHeader_readOn s

theorem frameIteration_dispatched (s : State) : (frameIteration s).Leaves (Dispatched s) := by
  refine ((frameHead_readOn s).mono fun _ h => h.dispatched).thenDispatch fun h t => ?_
  cases h with
  | none => exact Dispatched.refl t
  | some p => exact (frameBody_replied p.1 p.2 t).mono fun _ h => h.dispatched

theorem dispatchLoop_dispatched (n : Nat) (s : State) : (dispatchLoop n s).Leaves (Dispatched s) := by
  induction n generalizing s with
  | zero => exact Dispatched.refl s
  | succ n ih =>
    unfold dispatchLoop
    split
    · exact Dispatched.refl s
    · exact (frameIteration_dispatched s).thenDispatch fun _ t => ih t

theorem runHook_dispatched (h : Option Nat) (s : State) : Dispatched s (runHook h s) := by
  cases h with
  | none => exact Dispatched.refl s
  | some n => exact deliver_dispatched _ s

/-- An iteration that does not end the operation consumes at least one word, when there is one. -/
theorem frameIteration_consumes {s t : State} (hne : s.endOfBuffer = false) (h : frameIteration s = .ok () t) :
    s.cur < t.cur := by
  unfold frameIteration at h
  obtain ⟨o, u, hu, ht⟩ := Ran.andThen_eq_ok.mp h
  have hcur : s.cur < u.cur := by
    unfold frameHead at hu
    rw [if_neg (by simp [hne])] at hu
    split at hu
    · cases hu; exact Nat.lt_succ_self _
    · cases hf : s.fetch with
      | none => simp [readHeader, readByte_of_end hf] at hu
      | some w =>
        simp only [readHeader, readByte_of_word hf, Ran.andThen_ok] at hu
        have hr := readByte_readOn false { s with
          cur := s.cur + 1, crc := crcByte s.crc (s.cfg.decByte w)
          record := if s.recording && false then s.record ++ [s.cfg.decByte w] else s.record }
        revert hu hr
        generalize readByte false _ = r
        intro hu hr
        cases r with
        | ok v x =>
          simp only [Ran.map_ok, Ran.ok.injEq] at hu
          obtain ⟨-, rfl⟩ := hu
          obtain ⟨⟨k, c, b, r, rfl⟩, -⟩ := hr
          show s.cur < s.cur + 1 + k
          omega
        | err e x => simp at hu
        | stop x => simp at hu
  cases o with
  | none => cases ht; exact hcur
  | some p =>
    obtain ⟨a, f⟩ := p
    refine Nat.lt_of_lt_of_le hcur ?_
    unfold frameBody at ht
    obtain ⟨_, v, hv, ht⟩ := Ran.andThen_eq_ok.mp ht
    have hvu : v.cur = u.cur := by
      obtain ⟨-, h⟩ | ⟨q, -, h⟩ | ⟨_, _, q, -, -, h⟩ := queueCheck_cases a f (expectedFunction u.cfg f) u
      · rw [h] at hv; cases hv
      · rw [h] at hv; cases hv; rfl
      · rw [h] at hv; cases hv
    rw [← hvu]
    obtain ⟨e, -, h'⟩ | ⟨e, -, -, h'⟩ | ⟨-, -, h'⟩ := decodeReply_cases a f v
    · have := runDecoder_decoded f a e.decoder [] v
      rw [← h', ht] at this; exact this.forward
    · have := errorReply_decoded e a f v
      rw [← h', ht] at this; exact this.forward
    · rw [h'] at ht; cases ht

/-! ## Every dispatch has an end -/

theorem bound_get_append (bound : Bound) (n m : FieldName) (v : Value) :
    Bound.get (bound ++ [(n, v)]) m = if n = m then some v else Bound.get bound m := by
  unfold Bound.get
  rw [List.reverse_append, List.reverse_singleton, List.singleton_append, List.find?_cons]
  by_cases h : n = m <;> simp [h]

/-- The names are bound. -/
def BoundNames (names : List FieldName) (bound : Bound) : Prop := ∀ n ∈ names, ∃ v, Bound.get bound n = some v

theorem BoundNames.append {names : List FieldName} {bound : Bound} (h : BoundNames names bound) (n : FieldName) (v : Value) :
    BoundNames (n :: names) (bound ++ [(n, v)]) := by
  intro m hm
  rw [bound_get_append]
  split
  · exact ⟨v, rfl⟩
  · exact h m ((List.mem_cons.mp hm).resolve_left fun hc => ‹¬ n = m› hc.symm)

theorem boundNumber_ends {bound : Bound} {n : FieldName} (h : ∃ v, Bound.get bound n = some v) (s : State) :
    (boundNumber bound n s).Ends := by
  obtain ⟨v, hv⟩ := h
  obtain ⟨h', -⟩ | ⟨_, _, -, -, h'⟩ | ⟨_, -, -, h'⟩ := boundNumber_cases bound n s
  · simp [hv] at h'
  · simp [h']
  · simp [h']

/-- A decoder of the grammar always has an end: every name it uses is bound. -/
theorem runDecoder_ends (f a : Byte) (ds : List DecoderStep) (names : List FieldName) (bound : Bound) (s : State)
    (hd : decoderNamesOk names ds = true) (hb : BoundNames names bound) : (runDecoder f a ds bound s).Ends := by
  induction ds generalizing names bound s with
  | nil => simp [runDecoder]
  | cons d ds ih =>
    unfold runDecoder
    cases d with
    | read k n =>
      refine Ran.Ends.andThen (by simpa [decoderStep] using readScalar_ends k s) fun b t h => ?_
      obtain ⟨v, -, rfl⟩ := Ran.map_eq_ok.mp h
      exact ih (n :: names) _ t (by simpa [decoderNamesOk] using hd) (hb.append n v)
    | readString len n =>
      have hd' : decoderNamesOk (n :: names) ds = true := by
        cases len <;> simp only [decoderNamesOk, Bool.and_eq_true] at hd
        exacts [hd, hd.2]
      have hlen : (stringLength len bound s).Ends := by
        cases len with
        | const k => simp [stringLength]
        | minus v k =>
          simp only [decoderNamesOk, Bool.and_eq_true, List.contains_iff_mem] at hd
          simpa [stringLength] using boundNumber_ends (hb v hd.1) s
      refine Ran.Ends.andThen (hlen.andThen fun x t _ => ?_) fun b t h => ?_
      · split
        · simp
        · simpa using readString_ends _ t
      · obtain ⟨x, u, -, h⟩ := Ran.andThen_eq_ok.mp h
        split at h
        · simp at h
        · obtain ⟨v, -, rfl⟩ := Ran.map_eq_ok.mp h
          exact ih _ _ t hd' (hb.append n v)
    | recordChanges => exact ih names bound _ hd hb
    | pauseRecord => exact ih names bound _ hd hb
    | checkCrc =>
      refine Ran.Ends.andThen (by simpa [decoderStep] using checkCrc_ends s) fun b t h => ?_
      obtain ⟨-, -, rfl⟩ := Ran.map_eq_ok.mp h
      exact ih names _ t hd hb
    | setMode n =>
      simp only [decoderNamesOk, Bool.and_eq_true, List.contains_iff_mem] at hd
      refine Ran.Ends.andThen ((boundNumber_ends (hb n hd.1) s).andThen fun x t _ => by simp) fun b t h => ?_
      obtain ⟨x, u, -, h⟩ := Ran.andThen_eq_ok.mp h
      cases h
      exact ih names bound _ hd.2 hb
    | emit => exact ih names bound _ hd hb
    | emitIfChanged =>
      have hok : ∃ u, decoderStep f a .emitIfChanged bound s = .ok bound u := by
        simp only [decoderStep]
        split
        · exact ⟨_, rfl⟩
        · exact ⟨_, rfl⟩
      obtain ⟨u, hu⟩ := hok
      rw [hu]
      exact ih names bound u hd hb

theorem errorReply_ends (e : Entry) (a f : Byte) (s : State) : (errorReply e a f s).Ends := by
  refine (readByte_ends true s).andThen fun _ t _ => (checkCrc_ends t).andThen fun _ u _ => ?_
  cases e.handler <;> simp

theorem config_decodersOk {c : Config} (h : c.wf = true) : decodersOk c.registry = true := by
  simp only [Config.wf, Bool.and_eq_true] at h
  exact h.2

theorem config_registryWf {c : Config} (h : c.wf = true) : registryWf c.registry = true := by
  simp only [Config.wf, Bool.and_eq_true] at h
  exact h.1.2

theorem frameBody_ends (a f : Byte) (s : State) (h : s.cfg.wf = true) : (frameBody a f s).Ends := by
  unfold frameBody
  obtain ⟨-, hq⟩ | ⟨q, -, hq⟩ | ⟨_, _, q, -, -, hq⟩ := queueCheck_cases a f (expectedFunction s.cfg f) s
  · simp [hq]
  · rw [hq]
    simp only [Ran.andThen_ok]
    obtain ⟨e, he, h'⟩ | ⟨e, -, -, h'⟩ | ⟨-, -, h'⟩ := decodeReply_cases a f (s.setCq q)
    · rw [h']
      have hmem : e ∈ s.cfg.registry := List.mem_of_find?_eq_some he
      exact runDecoder_ends f a e.decoder [] [] _ (List.all_eq_true.mp (config_decodersOk h) e hmem) (by simp [BoundNames])
    · rw [h']; exact errorReply_ends e a f _
    · simp [h']
  · simp [hq]

theorem readHeader_ends (s : State) : (readHeader s).Ends :=
  (readByte_ends false s).andThen fun _ t _ => by simpa using readByte_ends false t

theorem frameHead_ends (s : State) : (frameHead s).Ends := by
  unfold frameHead
  split
  · simp
  · split
    · simp
    · simpa using readHeader_ends s

theorem frameIteration_ends (s : State) (h : s.cfg.wf = true) : (frameIteration s).Ends := by
  refine (frameHead_ends s).andThen fun o t ht => ?_
  cases o with
  | none => simp
  | some p =>
    have := frameHead_readOn s
    rw [ht] at this
    exact frameBody_ends p.1 p.2 t (by rw [this.dispatched.cfg]; exact h)

theorem dispatchLoop_ends (n : Nat) (s : State) (h : s.cfg.wf = true) : (dispatchLoop n s).Ends := by
  induction n generalizing s with
  | zero => simp [dispatchLoop]
  | succ n ih =>
    unfold dispatchLoop
    split
    · simp
    · refine (frameIteration_ends s h).andThen fun _ t ht => ih t ?_
      have := frameIteration_dispatched s
      rw [ht] at this
      rw [this.cfg]; exact h

end Sys2Proof.Machine
end

