-- ==== Sys2Proof/Laws/Decoder.lean ====
section
/-! SUPPORT. A decoder on bytes that are there: what its reads bind and the state they leave. -/

namespace Sys2Proof.Machine

open Sys2Proof

/-- The state after byte reads of `bs`. -/
def State.took (bs : List Byte) (s : State) : State :=
  { s with
    cur := s.cur + bs.length, crc := crcBytes s.crc bs, record := bif s.recording then s.record ++ bs else s.record }

@[simp] theorem State.took_cfg (bs : List Byte) (s : State) : (s.took bs).cfg = s.cfg := rfl
@[simp] theorem State.took_buf (bs : List Byte) (s : State) : (s.took bs).buf = s.buf := rfl
@[simp] theorem State.took_cur (bs : List Byte) (s : State) : (s.took bs).cur = s.cur + bs.length := rfl
@[simp] theorem State.took_crc (bs : List Byte) (s : State) : (s.took bs).crc = crcBytes s.crc bs := rfl
@[simp] theorem State.took_recording (bs : List Byte) (s : State) : (s.took bs).recording = s.recording := rfl
@[simp] theorem State.took_nil (s : State) : s.took [] = s := by simp [State.took]

theorem State.took_took (bs cs : List Byte) (s : State) : (s.took bs).took cs = s.took (bs ++ cs) := by
  unfold State.took
  simp only [List.length_append, crcBytes_append, Nat.add_assoc]
  congr 1
  cases s.recording <;> simp

/-- The bytes ahead of the cursor once the first of them were read. -/
theorem ahead_took {bs cs : List Byte} {s : State} (h : (bs ++ cs) <+: (s.buf.drop s.cur).map s.cfg.decByte) :
    cs <+: ((s.took bs).buf.drop (s.took bs).cur).map (s.took bs).cfg.decByte := by
  obtain ⟨rest, hr⟩ := h
  refine ⟨rest, ?_⟩
  have := congrArg (List.drop bs.length) hr
  rw [List.append_assoc, List.drop_left, ← List.map_drop, List.drop_drop] at this
  exact this

theorem ahead_of_append {bs cs : List Byte} {s : State} (h : (bs ++ cs) <+: (s.buf.drop s.cur).map s.cfg.decByte) :
    bs <+: (s.buf.drop s.cur).map s.cfg.decByte := (List.prefix_append _ _).trans h

/-- How many bytes a scalar read takes. -/
def readSize : ReadKind → Nat
  | .u8 => 1
  | .s8 => 1
  | .wide k => wideLength k

/-- The value of the bytes a scalar read took. -/
def readValue : ReadKind → List Byte → Value
  | .u8, bs => .uint (natBE bs)
  | .s8, bs => .sint (BitVec.ofNat 8 (natBE bs)).toInt
  | .wide k, bs => wideValue k bs

theorem readScalar_of_ahead {k : ReadKind} {bs : List Byte} {s : State} (hl : bs.length = readSize k)
    (h : bs <+: (s.buf.drop s.cur).map s.cfg.decByte) : readScalar k s = .ok (readValue k bs) (s.took bs) := by
  have one : ∀ b : Byte, [b] <+: (s.buf.drop s.cur).map s.cfg.decByte → readByte true s = .ok b (s.took [b]) := by
    intro b hb
    obtain ⟨w, hw, rfl, -⟩ := fetch_of_ahead hb
    rw [readByte_of_word hw]
    simp [State.took, Bool.cond_eq_ite]
  cases k with
  | u8 =>
    obtain ⟨b, rfl⟩ := List.length_eq_one_iff.mp hl
    simp [readScalar, one b h, readValue, natBE]
  | s8 =>
    obtain ⟨b, rfl⟩ := List.length_eq_one_iff.mp hl
    simp [readScalar, one b h, readValue, natBE]
  | wide k =>
    have := readBytes_of_ahead h
    rw [hl] at this
    simp only [readSize] at this
    simp only [readScalar, readWide, this, readValue, Ran.map_ok]
    congr 1
    unfold State.took
    rw [hl, Bool.cond_eq_ite]; rfl

theorem readString_of_ahead {bs : List Byte} {s : State} (h : bs <+: (s.buf.drop s.cur).map s.cfg.decByte) :
    readString bs.length s = .ok (.bytes bs) (s.took bs) := by
  simp [readString, readBytes_of_ahead h, State.took, Bool.cond_eq_ite]

/-- One read of a decoder, with the bytes it takes. -/
structure Field where
  kind : ReadKind
  name : FieldName
  bytes : List Byte

/-- The reads at the head of a decoder bind their values and go on with the rest of it. -/
theorem runDecoder_reads (f a : Byte) (fs : List Field) (ds : List DecoderStep) (bound : Bound) (s : State)
    (hl : ∀ x ∈ fs, x.bytes.length = readSize x.kind)
    (h : fs.flatMap Field.bytes <+: (s.buf.drop s.cur).map s.cfg.decByte) :
    runDecoder f a (fs.map (fun x => .read x.kind x.name) ++ ds) bound s =
      runDecoder f a ds (bound ++ fs.map (fun x => (x.name, readValue x.kind x.bytes))) (s.took (fs.flatMap Field.bytes)) := by
  induction fs generalizing bound s with
  | nil => simp
  | cons x fs ih =>
    rw [List.flatMap_cons] at h
    have hx := readScalar_of_ahead (hl x (by simp)) (ahead_of_append h)
    simp only [List.map_cons, List.cons_append, runDecoder, decoderStep, hx, Ran.map_ok, Ran.andThen_ok]
    rw [ih _ _ (fun y hy => hl y (by simp [hy])) (ahead_took h), State.took_took]
    simp

/-- The state after the bytes of a payload and their CRC were read and checked. -/
def State.checked (bs : List Byte) (s : State) : State :=
  { s with
    cur := s.cur + (bs.length + 2), crc := 0xFFFF, recording := false
    record := bif s.recording then s.record ++ bs else s.record }

theorem checkCrc_took {bs : List Byte} {s : State}
    (h : (bs ++ [crcLow (crcBytes s.crc bs), crcHigh (crcBytes s.crc bs)]) <+: (s.buf.drop s.cur).map s.cfg.decByte) :
    checkCrc (s.took bs) = .ok () (s.checked bs) := by
  rw [checkCrc_of_good (ahead_took h)]
  rfl

/-- The reads of a decoder and its CRC check, on a payload that is there with its CRC. -/
theorem runDecoder_checked (f a : Byte) (fs : List Field) (ds : List DecoderStep) (s : State) (bs : List Byte)
    (hl : ∀ x ∈ fs, x.bytes.length = readSize x.kind) (hb : fs.flatMap Field.bytes = bs)
    (h : (bs ++ [crcLow (crcBytes s.crc bs), crcHigh (crcBytes s.crc bs)]) <+: (s.buf.drop s.cur).map s.cfg.decByte) :
    runDecoder f a (fs.map (fun x => .read x.kind x.name) ++ .checkCrc :: ds) [] s =
      runDecoder f a ds (fs.map (fun x => (x.name, readValue x.kind x.bytes))) (s.checked bs) := by
  rw [runDecoder_reads f a fs _ [] s hl (by rw [hb]; exact ahead_of_append h), hb]
  simp only [runDecoder, decoderStep, checkCrc_took h, Ran.map_ok, Ran.andThen_ok, List.nil_append]

theorem decoderStep_setMode {f a : Byte} {n : FieldName} {bound : Bound} {x : Int} (s : State)
    (h : (Bound.get bound n).bind Value.int? = some x) :
    decoderStep f a (.setMode n) bound s = .ok bound { s with lastMode := Table.set s.lastMode a.toNat (BitVec.ofInt 8 x) } := by
  obtain ⟨v, hv, hx⟩ := Option.bind_eq_some_iff.mp h
  simp only [decoderStep, boundNumber, hv, hx]; rfl

theorem decoderStep_emit (f a : Byte) (bound : Bound) (s : State) :
    decoderStep f a .emit bound s = .ok bound { s with events := s.events ++ [eventOf f a bound] } := rfl

theorem decoderStep_emitIfChanged (f a : Byte) (bound : Bound) (s : State) :
    decoderStep f a .emitIfChanged bound s = .ok bound { s with
      cache := Table.set s.cache (cacheKey a f) s.record
      events := s.events ++
        (if s.cached a f = some s.record ∧ f ∉ s.cfg.alwaysTrigger then [] else [eventOf f a bound]) } := by
  simp only [decoderStep, responseMatchCached_eq]
  split
  · rename_i h
    rw [if_pos (by simpa using h), List.append_nil]
    rfl
  · rename_i h
    rw [if_neg (by simpa using h)]
    rfl

/-- A reply whose pair is at the head of the queue and whose function is a normal code runs its decoder. -/
theorem frameBody_normal {a f : Byte} {s : State} {q : List (Byte × Byte)} {e : Entry} (hn : s.cfg.normalEntry f = some e)
    (he : s.cfg.errorEntry f = none) (hq : s.cq = (a, f) :: q) :
    frameBody a f s = runDecoder f a e.decoder [] (s.setCq q) := by
  simp [frameBody, expectedFunction, he, queueCheck, hq, decodeReply, hn]

/-- A reply whose pair is at the head of the queue and whose function is an error code takes the error path. -/
theorem frameBody_error {a f n : Byte} {s : State} {q : List (Byte × Byte)} {e : Entry} (hn : s.cfg.normalEntry f = none)
    (he : s.cfg.errorEntry f = some e) (hen : e.normal = n) (hq : s.cq = (a, n) :: q) :
    frameBody a f s = errorReply e a f (s.setCq q) := by
  simp [frameBody, expectedFunction, he, hen, queueCheck, hq, decodeReply, hn]

/-- A reply that pairs, of a function that is neither, is unknown. -/
theorem frameBody_unknown {a f : Byte} {s : State} {q : List (Byte × Byte)} (hn : s.cfg.normalEntry f = none)
    (he : s.cfg.errorEntry f = none) (hq : s.cq = (a, f) :: q) :
    frameBody a f s = .err (.unknownResponse a f) (s.setCq q).loseCursor := by
  simp [frameBody, expectedFunction, he, queueCheck, hq, decodeReply, hn]

end Sys2Proof.Machine
end

