-- ==== Sys2Proof/Laws/Write.lean ====
section
/-! SUPPORT. What the write path and the request builders can do. -/

namespace Sys2Proof.Machine

open Sys2Proof

/-- Everything a write can do: it appends words and changes the CRC. -/
structure Wrote (s t : State) : Prop where
  eq : ∃ ws c, t = { s with buf := s.buf ++ ws, crc := c }
  wf : Memory.wf s.cfg.bufWords s.buf = true → Memory.wf t.cfg.bufWords t.buf = true

theorem Wrote.refl (s : State) : Wrote s s := ⟨⟨[], s.crc, by simp⟩, id⟩

theorem Wrote.trans {s t u : State} (h : Wrote s t) (k : Wrote t u) : Wrote s u := by
  obtain ⟨⟨ws, c, rfl⟩, hw⟩ := h
  obtain ⟨⟨ws', c', rfl⟩, kw⟩ := k
  exact ⟨⟨ws ++ ws', c', by simp⟩, fun h => kw (hw h)⟩

theorem Ran.Leaves.thenWrite {s : State} {α β : Type} {r : Ran α} {k : α → State → Ran β} (h : r.Leaves (Wrote s))
    (hk : ∀ v t, (k v t).Leaves (Wrote t)) : (r.andThen k).Leaves (Wrote s) :=
  h.andThen (fun v t ht => (hk v t).mono fun _ hu => ht.trans hu) fun _ ht => ht

theorem emit_wrote (w : Word) (s : State) : (emit w s).Leaves (Wrote s) := by
  have hwf := emit_keeps_wf w s
  unfold emit at hwf ⊢
  split
  · exact Wrote.refl s
  · rename_i h
    simp only [if_neg h] at hwf
    exact ⟨⟨[w], s.crc, rfl⟩, hwf⟩

theorem crcAdd_wrote (b : Byte) (s : State) : Wrote s (s.crcAdd b) := ⟨⟨[], crcByte s.crc b, by simp [State.crcAdd, State.setCrc]⟩, id⟩
theorem crcReset_wrote (s : State) : Wrote s s.crcReset := ⟨⟨[], 0xFFFF, by simp [State.crcReset, State.setCrc]⟩, id⟩

theorem writeByte_wrote (b : Byte) (s : State) : (writeByte b s).Leaves (Wrote s) :=
  (emit_wrote _ _).mono fun _ h => (crcAdd_wrote b s).trans h

theorem writeBytes_wrote (bs : List Byte) (s : State) : (writeBytes bs s).Leaves (Wrote s) := by
  induction bs generalizing s with
  | nil => exact Wrote.refl s
  | cons b bs ih => exact (writeByte_wrote b s).thenWrite fun _ t => ih t

theorem writeParams_wrote (ps : List Param) (s : State) : (writeParams ps s).Leaves (Wrote s) := by
  induction ps generalizing s with
  | nil => exact Wrote.refl s
  | cons p ps ih => exact (writeBytes_wrote p.bytes s).thenWrite fun _ t => ih t

theorem writeCrc_wrote (s : State) : (writeCrc s).Leaves (Wrote s) :=
  (emit_wrote _ s).thenWrite fun _ t => (emit_wrote _ t).thenWrite fun _ u => crcReset_wrote u

/-! ## Every write has an end -/

theorem writeByte_ends (b : Byte) (s : State) : (writeByte b s).Ends := emit_ends _ _

theorem writeBytes_ends (bs : List Byte) (s : State) : (writeBytes bs s).Ends := by
  induction bs generalizing s with
  | nil => simp [writeBytes]
  | cons b bs ih => exact (writeByte_ends b s).andThen fun _ t _ => ih t

theorem writeParams_ends (ps : List Param) (s : State) : (writeParams ps s).Ends := by
  induction ps generalizing s with
  | nil => simp [writeParams]
  | cons p ps ih => exact Ran.Ends.andThen (writeBytes_ends p.bytes s) fun _ t _ => ih t

theorem writeCrc_ends (s : State) : (writeCrc s).Ends :=
  (emit_ends _ s).andThen fun _ t _ => (emit_ends _ t).andThen fun _ _ _ => by simp

/-! ## Unbounded writes, exactly -/

theorem writeByte_of_unbounded {b : Byte} {s : State} (h : s.cfg.bufWords = none) :
    writeByte b s = .ok () { s with buf := s.buf ++ [s.cfg.encByte b], crc := crcByte s.crc b } :=
  emit_of_unbounded (by simpa using h)

theorem writeByte_of_room {b : Byte} {s : State} (h : s.cfg.bufWords ≠ some s.buf.length) :
    writeByte b s = .ok () { s with buf := s.buf ++ [s.cfg.encByte b], crc := crcByte s.crc b } :=
  emit_of_room (by simpa using h)

theorem writeByte_of_full {b : Byte} {s : State} (h : s.cfg.bufWords = some s.buf.length) :
    writeByte b s = .err (.bufferFull s.buf.length) { s with crc := crcByte s.crc b } :=
  emit_of_full (by simpa using h)

theorem writeBytes_append (bs cs : List Byte) (s : State) :
    writeBytes (bs ++ cs) s = (writeBytes bs s).andThen fun _ t => writeBytes cs t := by
  induction bs generalizing s with
  | nil => rfl
  | cons b bs ih => simp only [List.cons_append, writeBytes, ih, Ran.andThen_assoc]

theorem writeParams_eq_writeBytes (ps : List Param) (s : State) :
    writeParams ps s = writeBytes (ps.flatMap Param.bytes) s := by
  induction ps generalizing s with
  | nil => rfl
  | cons p ps ih => simp only [writeParams, writeParam, List.flatMap_cons, writeBytes_append, ih]

end Sys2Proof.Machine
end

