-- ==== Sys2Proof/Laws/Requests.lean ====
section
/-! SUPPORT. What the request builders can do: append words, then at most one push of the pair. -/

namespace Sys2Proof.Machine

open Sys2Proof

/-- Everything `push_commanded` can do. -/
theorem pushCommanded_cases (a f : Byte) (s : State) :
    (a ∈ s.cfg.broadcastSet ∧ pushCommanded a f s = .ok () s) ∨
    (a ∉ s.cfg.broadcastSet ∧ s.cfg.qDepth = some s.cq.length ∧ pushCommanded a f s = .err (.queueFull a f) s) ∨
    (a ∉ s.cfg.broadcastSet ∧ s.cfg.qDepth ≠ some s.cq.length ∧
      pushCommanded a f s = .ok () (s.setCq (s.cq ++ [(a, f)]))) := by
  unfold pushCommanded
  by_cases hb : a ∈ s.cfg.broadcastSet
  · exact .inl ⟨hb, by simp [hb]⟩
  · by_cases hq : s.cfg.qDepth = some s.cq.length
    · exact .inr (.inl ⟨hb, hq, by simp [hb, hq]⟩)
    · exact .inr (.inr ⟨hb, hq, by simp [hb, hq]⟩)

/-- Everything a request builder can do: append words, change the CRC, take free values, and push at most one pair, of a
unicast address and within the bound of the queue. -/
structure Built (s t : State) : Prop where
  eq : ∃ ws c q fr, t = { s with buf := s.buf ++ ws, crc := c, cq := q, free := fr } ∧
    (q = s.cq ∨ ∃ a f, q = s.cq ++ [(a, f)] ∧ a ∉ s.cfg.broadcastSet ∧ s.cfg.qDepth ≠ some s.cq.length)
  wf : Memory.wf s.cfg.bufWords s.buf = true → Memory.wf t.cfg.bufWords t.buf = true

theorem Wrote.built {s t : State} (h : Wrote s t) : Built s t := by
  obtain ⟨⟨ws, c, rfl⟩, hw⟩ := h
  exact ⟨⟨ws, c, s.cq, s.free, rfl, .inl rfl⟩, hw⟩

theorem pushCommanded_built (a f : Byte) (s : State) : (pushCommanded a f s).Leaves (Built s) := by
  obtain ⟨-, h⟩ | ⟨-, -, h⟩ | ⟨hb, hq, h⟩ := pushCommanded_cases a f s
  · rw [h]; exact (Wrote.refl s).built
  · rw [h]; exact (Wrote.refl s).built
  · rw [h]; exact ⟨⟨[], s.crc, _, s.free, by simp [State.setCq], .inr ⟨a, f, rfl, hb, hq⟩⟩, id⟩

theorem pushCommanded_ends (a f : Byte) (s : State) : (pushCommanded a f s).Ends := by
  obtain ⟨-, h⟩ | ⟨-, -, h⟩ | ⟨-, -, h⟩ := pushCommanded_cases a f s <;> simp [h]

/-- Words written before a push. -/
theorem Ran.Leaves.thenBuild {s : State} {α β : Type} {r : Ran α} {k : α → State → Ran β} (h : r.Leaves (Wrote s))
    (hk : ∀ v t, (k v t).Leaves (Built t)) : (r.andThen k).Leaves (Built s) := by
  refine h.andThen (fun v t ht => (hk v t).mono fun u hu => ?_) fun _ ht => ht.built
  obtain ⟨⟨ws, c, rfl⟩, hw⟩ := ht
  obtain ⟨⟨ws', c', q, fr, rfl, hq⟩, kw⟩ := hu
  exact ⟨⟨ws ++ ws', c', q, fr, by simp, hq⟩, fun h => kw (hw h)⟩

theorem callFunction_built (a f : Byte) (us : Micros) (ps : List Param) (s : State) :
    (callFunction a f us ps s).Leaves (Built s) :=
  (writeByte_wrote a s).thenBuild fun _ _ => (writeByte_wrote f _).thenBuild fun _ _ =>
    (writeParams_wrote ps _).thenBuild fun _ _ => (writeCrc_wrote _).thenBuild fun _ _ =>
    (emit_wrote _ _).thenBuild fun _ _ => (emit_wrote _ _).thenBuild fun _ _ => pushCommanded_built a f _

theorem callFunction_ends (a f : Byte) (us : Micros) (ps : List Param) (s : State) : (callFunction a f us ps s).Ends :=
  (writeByte_ends a s).andThen fun _ _ _ => (writeByte_ends f _).andThen fun _ _ _ =>
    (writeParams_ends ps _).andThen fun _ _ _ => (writeCrc_ends _).andThen fun _ _ _ =>
    (emit_ends _ _).andThen fun _ _ _ => (emit_ends _ _).andThen fun _ _ _ => pushCommanded_ends a f _

theorem broadcastData_of_le {d : List Byte} {n : Nat} (free : Nat) (h : n ≤ d.length) : broadcastData d n free = d.take n := by
  simp [broadcastData, Nat.sub_eq_zero_of_le h]

theorem length_broadcastData (d : List Byte) (n free : Nat) : (broadcastData d n free).length = n := by
  simp [broadcastData]; omega

/-- The free values of the data are taken first; the rest is writing. -/
theorem broadcastFunction_wrote (a f c : Byte) (us : Micros) (d : List Byte) (n : Nat) (s : State) :
    (broadcastFunction a f c us d n s).Leaves (Wrote (s.takeFree (n - d.length))) :=
  (writeByte_wrote a _).thenWrite fun _ _ => (writeByte_wrote f _).thenWrite fun _ _ =>
    (writeByte_wrote c _).thenWrite fun _ _ => (writeBytes_wrote _ _).thenWrite fun _ _ =>
    (writeCrc_wrote _).thenWrite fun _ _ => (emit_wrote _ _).thenWrite fun _ _ => emit_wrote _ _

theorem broadcastFunction_ends (a f c : Byte) (us : Micros) (d : List Byte) (n : Nat) (s : State) :
    (broadcastFunction a f c us d n s).Ends :=
  (writeByte_ends a _).andThen fun _ _ _ => (writeByte_ends f _).andThen fun _ _ _ =>
    (writeByte_ends c _).andThen fun _ _ _ => (writeBytes_ends _ _).andThen fun _ _ _ =>
    (writeCrc_ends _).andThen fun _ _ _ => (emit_ends _ _).andThen fun _ _ _ => emit_ends _ _

theorem runRequest_built (r : Request) (s : State) : (runRequest r s).Leaves (Built s) := by
  cases r with
  | broadcastFunction a f c us d n => 
    refine (broadcastFunction_wrote a f c us d n s).mono fun t h => ?_
    obtain ⟨⟨ws, c, rfl⟩, hw⟩ := h
    exact ⟨⟨ws, c, s.cq, _, rfl, .inl rfl⟩, hw⟩
  | _ => exact callFunction_built _ _ _ _ s

theorem runRequest_ends (r : Request) (s : State) : (runRequest r s).Ends := by
  cases r with
  | broadcastFunction a f c us d n => exact broadcastFunction_ends a f c us d n s
  | _ => exact callFunction_ends _ _ _ _ s

end Sys2Proof.Machine
end

