-- ==== Sys2Proof/Laws/Words.lean ====
section
/-! SUPPORT. The instruction words: what a word's instruction is, and that executing it is the issued read operation on that
word. -/

namespace Sys2Proof

/-! ## The decoder on a word given by its fields -/

theorem writePayload_fields (hi : BitVec 3) (b : Byte) (lo : BitVec 1) :
    (mkWord 0x1 (mkWritePayload hi b lo)).extractLsb' 9 3 = hi ∧
    (mkWord 0x1 (mkWritePayload hi b lo)).extractLsb' 1 8 = b ∧
    (mkWord 0x1 (mkWritePayload hi b lo)).extractLsb' 0 1 = lo := by
  unfold mkWord mkWritePayload
  refine ⟨?_, ?_, ?_⟩
  · ext i h
    have h1 : 9 + i < 12 := by omega
    have h2 : ¬ 9 + i < 1 := by omega
    have h3 : ¬ 8 + i < 8 := by omega
    have h4 : 9 + i - 1 = 8 + i := by omega
    have h5 : 8 + i - 8 = i := by omega
    simp only [BitVec.getElem_extractLsb', BitVec.getLsbD_append, h1, h2, h3, h4, h5, if_true, if_false]
    simp [BitVec.getLsbD_eq_getElem, h]
  · ext i h
    have h1 : 1 + i < 12 := by omega
    have h2 : ¬ 1 + i < 1 := by omega
    have h4 : 1 + i - 1 = i := by omega
    simp only [BitVec.getElem_extractLsb', BitVec.getLsbD_append, h, h1, h2, h4, if_true, if_false]
    simp [BitVec.getLsbD_eq_getElem, h]
  · ext i h
    have h1 : i < 12 := by omega
    simp only [BitVec.getElem_extractLsb', BitVec.getLsbD_append, h, h1, Nat.zero_add, if_true]
    simp [BitVec.getLsbD_eq_getElem, h]

theorem mkWritePayload_of_fields (w : Word) :
    mkWritePayload (w.extractLsb' 9 3) (w.extractLsb' 1 8) (w.extractLsb' 0 1) = payload w := by
  unfold mkWritePayload payload
  ext i hi
  simp only [BitVec.getElem_append, BitVec.getElem_extractLsb', Nat.zero_add]
  split
  · have : i = 0 := by omega
    subst this; simp
  · split
    · have e2 : 1 + (i - 1) = i := by omega
      simp [e2]
    · have e2 : 9 + (i - 1 - 8) = i := by omega
      simp [e2]

theorem setWidth_lowByte {w : Word} (h : (w.extractLsb' 8 8 : BitVec 8) = 0) :
    ((w.extractLsb' 0 8 : BitVec 8).setWidth 16 : Word) = w := by
  ext i hi
  simp only [BitVec.getElem_setWidth, BitVec.getLsbD_extractLsb', Nat.zero_add]
  by_cases h8 : i < 8
  · simp [h8, BitVec.getLsbD_eq_getElem, hi]
  · have : (w.extractLsb' 8 8 : BitVec 8).getLsbD (i - 8) = false := by rw [h]; simp
    rw [BitVec.getLsbD_extractLsb'] at this
    have e1 : i - 8 < 8 := by omega
    have e2 : 8 + (i - 8) = i := by omega
    simp only [e1, e2, decide_true, Bool.true_and] at this
    rw [BitVec.getLsbD_eq_getElem hi] at this
    simp [h8, this]

/-- The nibble's row has the word for its encoding. -/
theorem encode_decodeNibble (c : Config) (w : Word) : encode c (decodeNibble w) = [w] := by
  have key : ∀ n : Nibble, (nibble w).toNat = n.toNat → [mkWord n (payload w)] = [w] := fun n hn => by
    rw [eq_mkWord_of_nibble (BitVec.eq_of_toNat_eq hn)]
  have hlt := (nibble w).isLt
  unfold decodeNibble
  split <;> rename_i hn
  · exact key 0 hn
  · show [mkWord 1 (mkWritePayload _ _ _)] = [w]
    rw [mkWritePayload_of_fields]; exact key 1 hn
  · exact key 2 hn
  · exact key 3 hn
  · exact key 4 hn
  · exact key 5 hn
  · exact key 6 hn
  · exact key 7 hn
  · exact key 8 hn
  · exact key 9 hn
  · exact key 10 hn
  · exact key 11 hn
  · exact key 12 hn
  · exact key 13 hn
  · exact key 14 hn
  · refine key 15 ?_
    rw [show (15 : Nibble).toNat = 15 from rfl]
    simp only [imp_false] at *
    omega

theorem encode_decodeWord (c : Config) (w : Word) : encode c (decodeWord c w) = [w] := by
  unfold decodeWord
  split
  · subst_vars; rfl
  · split
    · subst_vars; rfl
    · split
      · rename_i h; show [_] = [w]; rw [setWidth_lowByte h.2]
      · exact encode_decodeNibble c w

/-- A word with a command nibble other than 0 is no raw byte word. -/
theorem highByte_mkWord_ne (p : Payload) {n : Nibble} (h : n ≠ 0) : ((mkWord n p).extractLsb' 8 8 : BitVec 8) ≠ 0 := by
  intro hc
  apply h
  have : nibble (mkWord n p) = 0 := by
    unfold nibble
    have e : (mkWord n p).extractLsb' 12 4 = ((mkWord n p).extractLsb' 8 8 : BitVec 8).extractLsb' 4 4 := by
      ext i hi
      have h1 : 8 + (4 + i) = 12 + i := by omega
      have h2 : 4 + i < 8 := by omega
      simp [h1, h2]
    rw [e, hc]; rfl
  simpa using this

/-- A word with nibble 0 is a raw byte word when its payload's top four bits are 0. -/
theorem highByte_mkWord_zero (p : Payload) :
    ((mkWord 0 p).extractLsb' 8 8 : BitVec 8) = 0 ↔ (p.extractLsb' 8 4 : BitVec 4) = 0 := by
  constructor
  · intro h
    have e : (p.extractLsb' 8 4 : BitVec 4) = ((mkWord 0 p).extractLsb' 8 8 : BitVec 8).extractLsb' 0 4 := by
      unfold mkWord
      ext i hi
      have h2 : i < 8 := by omega
      have h3 : 8 + i < 12 := by omega
      simp only [BitVec.getElem_extractLsb', BitVec.getLsbD_extractLsb', BitVec.getLsbD_append, Nat.zero_add, h2, h3,
        if_true, decide_true, Bool.true_and]
    rw [e, h]; rfl
  · intro h
    unfold mkWord
    ext i hi
    simp only [BitVec.getElem_extractLsb', BitVec.getLsbD_append]
    split
    · have : (p.extractLsb' 8 4 : BitVec 4).getLsbD i = false := by rw [h]; simp
      rw [BitVec.getLsbD_extractLsb'] at this
      have h4 : i < 4 := by omega
      simpa [h4] using this
    · simp

theorem ne_of_not_isSentinel {c : Config} {w : Word} (h : c.isSentinel w = false) : w ≠ c.txFrameend ∧ w ≠ c.rxEndframe := by
  simpa [Config.isSentinel] using h

/-- Past the whole-word tests and the PLAIN byte test, the nibble decides. -/
theorem decodeWord_mkWord {c : Config} {n : Nibble} {p : Payload} (h : c.isSentinel (mkWord n p) = false)
    (hn : n ≠ 0 ∨ ¬ (c.dialect = .plain ∧ (p.extractLsb' 8 4 : BitVec 4) = 0)) :
    decodeWord c (mkWord n p) = decodeNibble (mkWord n p) := by
  obtain ⟨h1, h2⟩ := ne_of_not_isSentinel h
  unfold decodeWord
  rw [if_neg h1, if_neg h2, if_neg]
  rintro ⟨hd, hz⟩
  by_cases h0 : n = 0
  · subst h0
    exact hn.elim (fun h => h rfl) fun h => h ⟨hd, (highByte_mkWord_zero p).mp hz⟩
  · exact highByte_mkWord_ne p h0 hz

end Sys2Proof

namespace Sys2Proof.Machine

open Sys2Proof

/-- Executing an instruction word is the issued read operation on that word, of some class. -/
theorem exec_word {i : Instr} {w : Word} {s : State} (hl : i.level = .word) (he : encode s.cfg i = [w]) :
    ∃ k, exec i s = executeWord k w s := by
  cases i <;> first
    | (simp only [encode, List.cons.injEq, and_true] at he; subst he; exact ⟨_, rfl⟩)
    | (cases hl)

theorem executeWord_of_op {o : WordOp} {s : State} (h : s.wordOp = some o) (k : WordClass) (w : Word) :
    executeWord k w s = finish (applyWordOp o k w s) := by
  simp [executeWord, h]

theorem exec_word_of_op {i : Instr} {w : Word} {s : State} {o : WordOp} (hl : i.level = .word) (he : encode s.cfg i = [w])
    (h : s.wordOp = some o) : ∃ k, exec i s = finish (applyWordOp o k w s) := by
  obtain ⟨k, hk⟩ := exec_word hl he
  exact ⟨k, hk.trans (executeWord_of_op h k w)⟩

/-- A one-word read can do nothing but read. -/
theorem applyWordOp_readOn {o : WordOp} {k : WordClass} {w : Word} {s : State} (h : s.fetch = some w ∨ o = .classify) :
    (applyWordOp o k w s).Leaves (ReadOn s) := by
  have adv : s.fetch = some w → ReadOn s s.advance := fun h =>
    ⟨⟨1, s.crc, s.recording, s.record, rfl⟩, fun _ => (fetch_eq_some h).1⟩
  have tb : s.fetch = some w → ReadOn s (takeByte true w s).2 := fun h => by
    rw [takeByte_eq]; exact ⟨⟨1, _, s.recording, _, rfl⟩, fun _ => (fetch_eq_some h).1⟩
  cases o with
  | readU8 => exact tb (h.resolve_right nofun)
  | readS8 => exact tb (h.resolve_right nofun)
  | peek => exact ReadOn.refl s
  | next => exact adv (h.resolve_right nofun)
  | readDelay =>
    simp only [applyWordOp, takeTime]
    split
    · exact adv (h.resolve_right nofun)
    · exact ReadOn.refl s
  | readWaitForRx =>
    simp only [applyWordOp, takeTime]
    split
    · exact adv (h.resolve_right nofun)
    · exact ReadOn.refl s
  | readEndOfFrame =>
    simp only [applyWordOp, takeEndOfFrame]
    exact Ran.leaves_ite.mpr ⟨fun _ => (adv (h.resolve_right nofun)).trans (crcReset_readOn _), fun _ => ReadOn.refl s⟩
  | endOfFrame => exact ReadOn.refl s
  | classify => exact ReadOn.refl s

theorem applyWordOp_ends (o : WordOp) (k : WordClass) (w : Word) (s : State) : (applyWordOp o k w s).Ends := by
  cases o <;> simp only [applyWordOp, takeTime, takeEndOfFrame] <;> first
    | exact (Ran.ends_ok _ _).mpr trivial
    | (split <;> simp)

theorem wordOpAtEnd_eq (o : WordOp) (s : State) : wordOpAtEnd o s =
    if o = .endOfFrame then .ok (.bool false) s else .err (.endOfBuffer s.cur) s := by
  cases o <;> rfl

/-! ## The decoded word is the word -/

theorem level_decodeWord (c : Config) (w : Word) : (decodeWord c w).level = .word := by
  unfold decodeWord
  split
  · rfl
  · split
    · rfl
    · split
      · rfl
      · unfold decodeNibble; split <;> rfl

end Sys2Proof.Machine
end

