-- ==== Sys2Proof/Laws/Step.lean ====
section
/-! SUPPORT. What one step does: the operation at the head of the host's list, and the frame instruction of a header. -/

namespace Sys2Proof.Machine

open Sys2Proof

theorem step_nil {s : State} (h : s.ops = []) : step s = .next s := by simp [step, h]

theorem step_cons {s : State} {o : HostOp} {rest : List HostOp} (h : s.ops = o :: rest) : step s = runOp o s.begin := by
  simp [step, h]

/-- The function byte a frame instruction's header carries. -/
theorem exec_frame {i : Instr} {a f : Byte} (h : decodeFrame a f = .ok i) (s : State) :
    exec i s = finish (frameBody a f s).noValue := by
  have key : ∀ (n : Nat) (b : Byte), f.toNat = n → b.toNat = n → f = b :=
    fun n b h1 h2 => BitVec.eq_of_toNat_eq (h1.trans h2.symm)
  unfold decodeFrame at h
  split at h <;> first
    | cases h; done
    | (cases h; rename_i hf; first
        | (rw [key _ 17 hf rfl]; rfl) | (rw [key _ 145 hf rfl]; rfl) | (rw [key _ 18 hf rfl]; rfl)
        | (rw [key _ 146 hf rfl]; rfl) | (rw [key _ 65 hf rfl]; rfl) | (rw [key _ 193 hf rfl]; rfl)
        | (rw [key _ 72 hf rfl]; rfl) | (rw [key _ 200 hf rfl]; rfl) | (rw [key _ 107 hf rfl]; rfl)
        | (rw [key _ 235 hf rfl]; rfl) | (rw [key _ 67 hf rfl]; rfl) | (rw [key _ 195 hf rfl]; rfl)
        | (rw [key _ 81 hf rfl]; rfl) | (rw [key _ 209 hf rfl]; rfl) | (rw [key _ 110 hf rfl]; rfl)
        | (rw [key _ 238 hf rfl]; rfl) | (rw [key _ 119 hf rfl]; rfl) | (rw [key _ 247 hf rfl]; rfl))

/-- A frame iteration is `frameIteration`, whether or not the function byte is a row of the table. -/
theorem stepFrame_eq (s : State) : stepFrame s = finish (frameIteration s).noValue := by
  unfold stepFrame frameIteration
  cases h : frameHead s with
  | ok o t =>
    cases o with
    | none => rfl
    | some p =>
      obtain ⟨a, f⟩ := p
      cases hd : decodeFrame a f with
      | ok i => simp only [hd, Ran.andThen_ok]; exact exec_frame hd t
      | error e => simp only [hd, Ran.andThen_ok]
  | err e t => rfl
  | stop x => rfl

/-- A one-word read of the word at the cursor. -/
theorem stepWord_eq (o : WordOp) {s : State} {rest : List HostOp} (h : s.ops = .word o :: rest) :
    ∃ k, stepWord o s = finish (match s.fetch with | some w => applyWordOp o k w s | none => wordOpAtEnd o s) := by
  unfold stepWord
  cases hf : s.fetch with
  | none => exact ⟨.txFrameend, rfl⟩
  | some w =>
    have hop : s.wordOp = some o := by simp [State.wordOp, h, HostOp.wordOp]
    exact exec_word_of_op (level_decodeWord s.cfg w) (encode_decodeWord s.cfg w) hop

end Sys2Proof.Machine
end

