-- ==== Sys2Proof/Laws/Effects.lean ====
section
/-! SUPPORT. What each host operation can do, said once: `OpEffect o s u` relates the state an operation begins in and the state
it leaves, whether it succeeds or raises. -/

namespace Sys2Proof.Machine

open Sys2Proof

/-- Everything `process_response` can do: the seat fails, or the chunk is seated and dispatched. -/
def Processed (s u : State) : Prop :=
  (∃ ev, u = { s with registrySealed := true, events := s.events ++ ev }) ∨
  ∃ ws ev, Memory.wf s.cfg.bufWords ws = true ∧
    Dispatched { s with registrySealed := true, events := s.events ++ ev, buf := ws, cur := 0, crc := 0xFFFF } u

/-- Everything a driver call can do: it moves words of the driver and takes free values. -/
def Drove (s u : State) : Prop := ∃ d n, u = (s.takeFree n).setDriver d

theorem setDriver_drove (d : Driver) (s : State) : Drove s (s.setDriver d) := ⟨d, 0, rfl⟩

/-- Everything an operation can do. -/
def OpEffect (o : HostOp) (s u : State) : Prop :=
  match o with
  | .word _ => ReadOn s u
  | .decodeWord _ => u = s
  | .frame => Dispatched s u
  | .endOfBuffer => u = s
  | .readWide _ => ReadOn s u
  | .readString _ => ReadOn s u
  | .checkCrc => ReadOn s u
  | .write _ => Wrote s u
  | .writeCrc => Wrote s u
  | .writeDelay _ => Wrote s u
  | .writeWaitForRx _ => Wrote s u
  | .writeEndOfFrame => Wrote s u
  | .writeRxEndFrame => Wrote s u
  | .addResponse e => s.registrySealed = false ∧ registryWf (s.cfg.registry ++ [e]) = true ∧
      decoderNamesOk [] e.decoder = true ∧ u = s.setCfg { s.cfg with registry := s.cfg.registry ++ [e] }
  | .processResponse _ _ => Processed s u
  | .pushCommanded _ _ => Built s u
  | .checkCommandedEmpty => u = s
  | .request _ => Built s u
  | .recordChanges => ReadOn s u
  | .pauseRecordChanges => ReadOn s u
  | .checkRecording _ => u = s
  | .nextBroadcastCounter => u = nextBroadcastCounter s
  | .reset => u = resetOp s
  | .clear b => u = clearOp b s
  | .snapshot => u = s
  | .writeCommandFifo _ _ _ => Drove s u
  | .writeRequestFifo _ => Drove s u
  | .readU16ResponseFifo _ _ => Drove s u
  | .fpgaTake _ => Drove s u
  | .fpgaSupply _ => Drove s u
  | .arbiter a => ∃ v x, u = v.setArb x ∧
      ((∃ b d, v = clearOp b (s.setDriver d)) ∨ Drove s v ∨ Built s v ∨ (∃ m, a = .process m) ∧ Processed s v)

theorem runHook_eq (h : Option Nat) (s : State) : ∃ ev, runHook h s = { s with events := s.events ++ ev } := by
  cases h with
  | none => exact ⟨[], by simp [runHook]⟩
  | some n => exact ⟨[.hook n], rfl⟩

theorem processResponse_processed (ws : List Word) (n : Nat) (s : State) : (processResponse ws n s).Leaves (Processed s) := by
  unfold processResponse
  refine Ran.leaves_ite.mpr ⟨fun _ => trivial, fun _ => ?_⟩
  obtain ⟨ev, hev⟩ := runHook_eq s.cfg.preProcess (s.setRegistrySealed true)
  rw [hev, seat_eq]
  by_cases hw : Memory.wf s.cfg.bufWords (ws.take n) = true
  · rw [if_pos (by exact hw)]
    simp only [Ran.andThen_ok]
    refine (dispatchLoop_dispatched _ _).andThen (fun _ u hu => ?_) fun _ hu => .inr ⟨_, ev, hw, hu⟩
    exact .inr ⟨_, ev, hw, hu.trans (runHook_dispatched _ u)⟩
  · rw [if_neg (by exact hw)]
    exact .inl ⟨ev, rfl⟩

theorem arbGoto_leaves {α : Type} {P : State → Prop} {r : Ran α} (next : α → ArbState) (h : r.Leaves P) :
    (arbGoto r next).Leaves fun u => ∃ v x, u = v.setArb x ∧ P v := by
  cases r with
  | ok v s => exact ⟨s, _, rfl, h⟩
  | err e s => exact ⟨s, _, rfl, h⟩
  | stop x => trivial

theorem writeCommandFifo_drives (ws : List Word) (n : Nat) (s : State) :
    (writeCommandFifo ws n s).Leaves (Drove s) :=
  Ran.leaves_ite.mpr ⟨fun _ => trivial, fun _ => ⟨_, _, rfl⟩⟩

theorem readCount_drives (s : State) : (readCount s).Leaves (Drove s) := ⟨_, _, rfl⟩

theorem readWords_drives (n : Nat) (s : State) : (readWords n s).Leaves (Drove s) :=
  Ran.leaves_ite.mpr ⟨fun _ => setDriver_drove _ s, fun _ => ⟨_, _, rfl⟩⟩

theorem readU16ResponseFifo_drives (n : Nat) (s : State) : (readU16ResponseFifo n s).Leaves (Drove s) :=
  Ran.leaves_ite.mpr ⟨fun _ => readCount_drives s, fun _ => readWords_drives n s⟩

theorem arbiterStep_effect (a : ArbAction) (s : State) : (arbiterStep a s).Leaves (OpEffect (.arbiter a) s) := by
  have go : ∀ {α : Type} {r : Ran α} {next : α → ArbState}, (r.Leaves fun v => (∃ b d, v = clearOp b (s.setDriver d)) ∨
      Drove s v ∨ Built s v ∨ (∃ m, a = .process m) ∧ Processed s v) → (arbGoto r next).Leaves (OpEffect (.arbiter a) s) :=
    fun h => arbGoto_leaves _ h
  unfold arbiterStep
  split
  · exact go (.inl ⟨true, s.driver, rfl⟩)
  · exact go (Ran.leaves_noValue.mpr ((runRequest_built _ s).mono fun _ h => .inr (.inr (.inl h))))
  · exact go (.inr (.inr (.inl (Wrote.refl s).built)))
  · exact go (Ran.leaves_noValue.mpr ((writeCommandFifo_drives _ _ s).mono fun _ h => .inr (.inl h)))
  · exact go (.inr (.inl (setDriver_drove _ s)))
  · exact Ran.leaves_map.mpr (go ((readCount_drives s).mono fun _ h => .inr (.inl h)))
  · exact Ran.leaves_map.mpr (go ((readWords_drives _ s).mono fun _ h => .inr (.inl h)))
  · exact go (Ran.leaves_noValue.mpr ((processResponse_processed _ _ s).mono fun _ h => .inr (.inr (.inr ⟨⟨_, rfl⟩, h⟩))))
  · refine go (Ran.leaves_noValue.mpr ?_)
    unfold checkCommandedEmpty
    exact Ran.leaves_ite.mpr ⟨fun _ => .inr (.inr (.inl (Wrote.refl s).built)), fun _ => .inr (.inr (.inl (Wrote.refl s).built))⟩
  · exact go (.inl ⟨false, _, rfl⟩)
  · trivial

theorem effect_of_ok {o : HostOp} {s u : State} {v : Value} (h : runOp o s = finish (.ok v u)) (he : OpEffect o s u) :
    ∃ r, runOp o s = finish r ∧ r.Leaves (OpEffect o s) := ⟨.ok v u, h, he⟩

/-- Every operation is the end of one run, and that run has the operation's effect. -/
theorem runOp_effect {o : HostOp} {s : State} {rest : List HostOp} (h : s.ops = o :: rest) :
    ∃ r, runOp o s = finish r ∧ r.Leaves (OpEffect o s) := by
  cases o with
  | word o =>
    obtain ⟨k, hk⟩ := stepWord_eq o h
    refine ⟨_, hk, ?_⟩
    cases hf : s.fetch with
    | none =>
      simp only [wordOpAtEnd_eq]
      exact Ran.leaves_ite.mpr ⟨fun _ => ReadOn.refl s, fun _ => ReadOn.refl s⟩
    | some w => exact applyWordOp_readOn (.inl hf)
  | decodeWord w =>
    have hop : s.wordOp = some .classify := by simp [State.wordOp, h, HostOp.wordOp]
    obtain ⟨k, hk⟩ := exec_word_of_op (level_decodeWord s.cfg w) (encode_decodeWord s.cfg w) hop
    exact ⟨_, hk, rfl⟩
  | frame => exact ⟨_, stepFrame_eq s, Ran.leaves_noValue.mpr (frameIteration_dispatched s)⟩
  | endOfBuffer => exact effect_of_ok rfl rfl
  | readWide k => exact ⟨_, rfl, readWide_readOn k s⟩
  | readString n => exact ⟨_, rfl, readString_readOn n s⟩
  | checkCrc => exact ⟨_, rfl, Ran.leaves_noValue.mpr (checkCrc_readOn s)⟩
  | write p => exact ⟨_, rfl, Ran.leaves_noValue.mpr (writeBytes_wrote _ s)⟩
  | writeCrc => exact ⟨_, rfl, Ran.leaves_noValue.mpr (writeCrc_wrote s)⟩
  | writeDelay us => exact ⟨_, rfl, Ran.leaves_noValue.mpr (emit_wrote _ s)⟩
  | writeWaitForRx us => exact ⟨_, rfl, Ran.leaves_noValue.mpr (emit_wrote _ s)⟩
  | writeEndOfFrame => exact ⟨_, rfl, Ran.leaves_noValue.mpr (emit_wrote _ s)⟩
  | writeRxEndFrame => exact ⟨_, rfl, Ran.leaves_noValue.mpr (emit_wrote _ s)⟩
  | addResponse e =>
    refine ⟨_, rfl, Ran.leaves_noValue.mpr ?_⟩
    unfold addResponse
    refine Ran.leaves_ite.mpr ⟨fun _ => trivial, fun h1 => Ran.leaves_ite.mpr ⟨fun _ => trivial, fun h2 =>
      Ran.leaves_ite.mpr ⟨fun _ => trivial, fun h3 => ⟨by simpa using h1, by simpa using h2, by simpa using h3, rfl⟩⟩⟩⟩
  | processResponse ws n => exact ⟨_, rfl, Ran.leaves_noValue.mpr (processResponse_processed ws n s)⟩
  | pushCommanded a f => exact ⟨_, rfl, Ran.leaves_noValue.mpr (pushCommanded_built a f s)⟩
  | checkCommandedEmpty =>
    refine ⟨_, rfl, Ran.leaves_noValue.mpr ?_⟩
    unfold checkCommandedEmpty
    exact Ran.leaves_ite.mpr ⟨fun _ => rfl, fun _ => rfl⟩
  | request r => exact ⟨_, rfl, Ran.leaves_noValue.mpr (runRequest_built r s)⟩
  | recordChanges => exact effect_of_ok rfl (recordChanges_readOn s)
  | pauseRecordChanges => exact effect_of_ok rfl (pauseRecordChanges_readOn s)
  | checkRecording c => exact effect_of_ok rfl rfl
  | nextBroadcastCounter => exact effect_of_ok rfl rfl
  | reset => exact effect_of_ok rfl rfl
  | clear b => exact effect_of_ok rfl rfl
  | snapshot => exact effect_of_ok rfl rfl
  | writeCommandFifo ws n t => exact ⟨_, rfl, Ran.leaves_noValue.mpr (writeCommandFifo_drives ws n s)⟩
  | writeRequestFifo args => exact effect_of_ok rfl (setDriver_drove _ s)
  | readU16ResponseFifo n t => exact ⟨_, rfl, Ran.leaves_map.mpr (readU16ResponseFifo_drives n s)⟩
  | fpgaTake n => exact effect_of_ok rfl (setDriver_drove _ s)
  | fpgaSupply ws => exact effect_of_ok rfl (setDriver_drove _ s)
  | arbiter a => exact ⟨_, rfl, arbiterStep_effect a s⟩

/-- Everything a step can do when it has a next state and an operation is issued. -/
theorem step_effect {s t : State} {o : HostOp} {rest : List HostOp} (h : s.ops = o :: rest) (ht : step s = .next t) :
    ∃ x u, t = u.complete x ∧ OpEffect o s.begin u := by
  rw [step_cons h] at ht
  obtain ⟨r, hr, hl⟩ := runOp_effect (o := o) (s := s.begin) h
  rw [hr] at ht
  exact finish_leaves ht hl

end Sys2Proof.Machine
end

