-- ==== Sys2Proof/Laws/PerInstr.lean ====
section
/-! SUPPORT. One fact about every instruction as syntax: its own words carry the fixed bits of its row of
spec/opcode_table.json. -/

namespace Sys2Proof.Laws.OpcodeMatch

open Sys2Proof Sys2Proof.Machine

/-- The `mask` and `match` of an instruction's row of the opcode table. -/
def row : Instr → Word × Word
  | .write _ _ _ => (0xF000, 0x1000)
  | .frameend => (0xFFFF, 0x20DA)
  | .badSentinel2 _ => (0xF000, 0x2000)
  | .txts _ => (0xF000, 0x3000)
  | .delay _ => (0xF000, 0x4000)
  | .ldelay _ => (0xF000, 0x5000)
  | .waitrx _ => (0xF000, 0x6000)
  | .irq _ => (0xF000, 0x7000)
  | .waittrig _ => (0xF000, 0x8000)
  | .lwaitrx _ => (0xF000, 0x9000)
  | .rxend => (0xFFFF, 0xA000)
  | .badSentinelA _ => (0xF000, 0xA000)
  | .rxts _ => (0xF000, 0xB000)
  | .reserved0 _ => (0xF000, 0x0000)
  | .reservedC _ => (0xF000, 0xC000)
  | .reservedD _ => (0xF000, 0xD000)
  | .reservedE _ => (0xF000, 0xE000)
  | .reservedF _ => (0xF000, 0xF000)
  | .byte _ => (0xFF00, 0x0000)
  | .serverId _ => (0xFF, 0x11)
  | .serverIdError _ => (0xFF, 0x91)
  | .serverStatus _ => (0xFF, 0x12)
  | .serverStatusError _ => (0xFF, 0x92)
  | .changeMode _ => (0xFF, 0x41)
  | .changeModeError _ => (0xFF, 0xC1)
  | .setTempAddress _ => (0xFF, 0x48)
  | .setTempAddressError _ => (0xFF, 0xC8)
  | .resetServer _ => (0xFF, 0x6B)
  | .resetServerError _ => (0xFF, 0xEB)
  | .hardpointForceStatus _ => (0xFF, 0x43)
  | .hardpointForceStatusError _ => (0xFF, 0xC3)
  | .setOffsetAndSensitivity _ => (0xFF, 0x51)
  | .setOffsetAndSensitivityError _ => (0xFF, 0xD1)
  | .reportCalibrationData _ => (0xFF, 0x6E)
  | .reportCalibrationDataError _ => (0xFF, 0xEE)
  | .mezzaninePressure _ => (0xFF, 0x77)
  | .mezzaninePressureError _ => (0xFF, 0xF7)

/-- The bits the row numbers: the instruction word itself, or the data byte of a header's function word. -/
def bits (c : Config) (i : Instr) (w : Word) : Word :=
  match i.level with
  | .word => w
  | .frame => (c.decByte w).setWidth 16

/-- The last word of the instruction matches its row, with the sentinels at the values the table gives them. -/
def Statement (i : Instr) : Prop :=
  ∀ (c : Config) (w : Word), c.txFrameend = 0x20DA → c.rxEndframe = 0xA000 → c.byteCodecOk = true →
    (encode c i).getLast? = some w → bits c i w &&& (row i).1 = (row i).2

/-- A word with command nibble `n` matches a row that fixes only the nibble. -/
theorem nibble_row (n : Nibble) (p : Payload) : mkWord n p &&& 0xF000 = mkWord n 0 := by
  rw [show (0xF000 : Word) = mkWord 0xF 0 from rfl]
  unfold mkWord
  rw [BitVec.and_append, show p &&& 0 = 0 from BitVec.and_zero, show n &&& 0xF = n from BitVec.and_allOnes]

/-- The function byte of a header is the one its row gives. -/
theorem header_row {c : Config} {a f : Byte} {w x : Word} (hc : c.byteCodecOk = true)
    (h : (c.encHeader a f).getLast? = some w) (hx : f.setWidth 16 &&& 0xFF = x) :
    (c.decByte w).setWidth 16 &&& 0xFF = x := by
  simp only [Config.encHeader, List.getLast?_cons_cons, List.getLast?_singleton, Option.some.injEq] at h
  rw [← h, Config.decByte_encByte hc, hx]

theorem write (hi : BitVec 3) (b : Byte) (lo : BitVec 1) : Statement (.write hi b lo) := fun _ _ _ _ _ h => by
  cases h; exact nibble_row 0x1 _
theorem frameend : Statement (.frameend) := fun c w ht _ _ h => by
  cases h; show c.txFrameend &&& 0xFFFF = 0x20DA; rw [ht]; rfl
theorem badSentinel2 (p : Payload) : Statement (.badSentinel2 p) := fun _ _ _ _ _ h => by
  cases h; exact nibble_row 0x2 _
theorem txts (p : Payload) : Statement (.txts p) := fun _ _ _ _ _ h => by
  cases h; exact nibble_row 0x3 _
theorem delay (us : Payload) : Statement (.delay us) := fun _ _ _ _ _ h => by
  cases h; exact nibble_row 0x4 _
theorem ldelay (ms : Payload) : Statement (.ldelay ms) := fun _ _ _ _ _ h => by
  cases h; exact nibble_row 0x5 _
theorem waitrx (us : Payload) : Statement (.waitrx us) := fun _ _ _ _ _ h => by
  cases h; exact nibble_row 0x6 _
theorem irq (p : Payload) : Statement (.irq p) := fun _ _ _ _ _ h => by
  cases h; exact nibble_row 0x7 _
theorem waittrig (p : Payload) : Statement (.waittrig p) := fun _ _ _ _ _ h => by
  cases h; exact nibble_row 0x8 _
theorem lwaitrx (ms : Payload) : Statement (.lwaitrx ms) := fun _ _ _ _ _ h => by
  cases h; exact nibble_row 0x9 _
theorem rxend : Statement (.rxend) := fun c w _ hr _ h => by
  cases h; show c.rxEndframe &&& 0xFFFF = 0xA000; rw [hr]; rfl
theorem badSentinelA (p : Payload) : Statement (.badSentinelA p) := fun _ _ _ _ _ h => by
  cases h; exact nibble_row 0xA _
theorem rxts (p : Payload) : Statement (.rxts p) := fun _ _ _ _ _ h => by
  cases h; exact nibble_row 0xB _
theorem reserved0 (p : Payload) : Statement (.reserved0 p) := fun _ _ _ _ _ h => by
  cases h; exact nibble_row 0x0 _
theorem reservedC (p : Payload) : Statement (.reservedC p) := fun _ _ _ _ _ h => by
  cases h; exact nibble_row 0xC _
theorem reservedD (p : Payload) : Statement (.reservedD p) := fun _ _ _ _ _ h => by
  cases h; exact nibble_row 0xD _
theorem reservedE (p : Payload) : Statement (.reservedE p) := fun _ _ _ _ _ h => by
  cases h; exact nibble_row 0xE _
theorem reservedF (p : Payload) : Statement (.reservedF p) := fun _ _ _ _ _ h => by
  cases h; exact nibble_row 0xF _
theorem byte (b : Byte) : Statement (.byte b) := fun _ _ _ _ _ h => by
  cases h; show b.setWidth 16 &&& 0xFF00 = 0; revert b; decide
theorem serverId (a : Byte) : Statement (.serverId a) := fun _ _ _ _ hc h => header_row hc h rfl
theorem serverIdError (a : Byte) : Statement (.serverIdError a) := fun _ _ _ _ hc h => header_row hc h rfl
theorem serverStatus (a : Byte) : Statement (.serverStatus a) := fun _ _ _ _ hc h => header_row hc h rfl
theorem serverStatusError (a : Byte) : Statement (.serverStatusError a) := fun _ _ _ _ hc h => header_row hc h rfl
theorem changeMode (a : Byte) : Statement (.changeMode a) := fun _ _ _ _ hc h => header_row hc h rfl
theorem changeModeError (a : Byte) : Statement (.changeModeError a) := fun _ _ _ _ hc h => header_row hc h rfl
theorem setTempAddress (a : Byte) : Statement (.setTempAddress a) := fun _ _ _ _ hc h => header_row hc h rfl
theorem setTempAddressError (a : Byte) : Statement (.setTempAddressError a) := fun _ _ _ _ hc h => header_row hc h rfl
theorem resetServer (a : Byte) : Statement (.resetServer a) := fun _ _ _ _ hc h => header_row hc h rfl
theorem resetServerError (a : Byte) : Statement (.resetServerError a) := fun _ _ _ _ hc h => header_row hc h rfl
theorem hardpointForceStatus (a : Byte) : Statement (.hardpointForceStatus a) := fun _ _ _ _ hc h => header_row hc h rfl
theorem hardpointForceStatusError (a : Byte) : Statement (.hardpointForceStatusError a) := fun _ _ _ _ hc h => header_row hc h rfl
theorem setOffsetAndSensitivity (a : Byte) : Statement (.setOffsetAndSensitivity a) := fun _ _ _ _ hc h => header_row hc h rfl
theorem setOffsetAndSensitivityError (a : Byte) : Statement (.setOffsetAndSensitivityError a) := fun _ _ _ _ hc h => header_row hc h rfl
theorem reportCalibrationData (a : Byte) : Statement (.reportCalibrationData a) := fun _ _ _ _ hc h => header_row hc h rfl
theorem reportCalibrationDataError (a : Byte) : Statement (.reportCalibrationDataError a) := fun _ _ _ _ hc h => header_row hc h rfl
theorem mezzaninePressure (a : Byte) : Statement (.mezzaninePressure a) := fun _ _ _ _ hc h => header_row hc h rfl
theorem mezzaninePressureError (a : Byte) : Statement (.mezzaninePressureError a) := fun _ _ _ _ hc h => header_row hc h rfl

end Sys2Proof.Laws.OpcodeMatch
end

