-- ==== Sys2Proof/Tests/Slice0.lean ====
section
/-! SUPPORT. The tests.  Expected values are those of spec/30_encoding.md and spec/95_test_vectors.md (the section is named at
each group), or hand calculation from a rule; and for every statement with hypotheses a witness that meets them. -/

namespace Sys2Proof.Tests

open Sys2Proof Sys2Proof.Machine Sys2Proof.Safety

-- Many small kernel evaluations: elaborated one after another, so that they do not each take a thread.
set_option Elab.async false

/-! ## Helpers -/

/-- A block after power-on with these words in its buffer and this operation issued. -/
def issued (o : HostOp) (ws : List Word) : State := { State.reset with buf := ws, ops := [o] }

/-- The next state, if there is one. -/
def next (s : State) : Option State :=
  match step s with
  | .next t => some t
  | .fault _ => none
  | .refused _ => none

/-- What a step answers, and the cursor and the CRC it leaves. -/
def answer (s : State) : Option (Option Result × Nat × Word) := (next s).map fun t => (t.result, t.cur, t.crc)

/-- One iteration of the dispatch loop on a reply, with this queue. -/
def reply (q : List (Byte × Byte)) (ws : List Word) : State := { issued .frame ws with cq := q }

/-- What a frame iteration answers, delivers and leaves of the queue. -/
def replied (s : State) : Option (Option Result × List Event × List (Byte × Byte)) :=
  (next s).map fun t => (t.result, t.events, t.cq)

/-- The words an operation appends to an empty buffer. -/
def emitted (o : HostOp) : Option (List Word × Word) := (next (issued o [])).map fun t => (t.buf, t.crc)

/-! ## Well-formedness: an ill-formed term for each check -/

/-- The hardware's configuration with this word as its end-of-frame word. -/
def sentinelAt (w : Word) : Config := { Config.ilc with txFrameend := w }

theorem test_illformed_write : wellFormed (sentinelAt 0x1000) (.write 0 0 0) = false := by decide
theorem test_illformed_sentinel2 : wellFormed Config.ilc (.badSentinel2 0x0DA) = false := by decide
theorem test_illformed_sentinelA : wellFormed Config.ilc (.badSentinelA 0x000) = false := by decide
theorem test_illformed_rxend : wellFormed (sentinelAt 0xA000) .rxend = false := by decide
theorem test_illformed_txts : wellFormed (sentinelAt 0x3FFF) (.txts 0xFFF) = false := by decide
theorem test_illformed_delay : wellFormed (sentinelAt 0x4001) (.delay 1) = false := by decide
theorem test_illformed_ldelay : wellFormed (sentinelAt 0x5001) (.ldelay 1) = false := by decide
theorem test_illformed_waitrx : wellFormed (sentinelAt 0x6001) (.waitrx 1) = false := by decide
theorem test_illformed_irq : wellFormed (sentinelAt 0x7000) (.irq 0) = false := by decide
theorem test_illformed_waittrig : wellFormed (sentinelAt 0x8000) (.waittrig 0) = false := by decide
theorem test_illformed_lwaitrx : wellFormed (sentinelAt 0x9065) (.lwaitrx 101) = false := by decide
theorem test_illformed_rxts : wellFormed (sentinelAt 0xB123) (.rxts 0x123) = false := by decide
theorem test_illformed_reserved0 : wellFormed (sentinelAt 0x0100) (.reserved0 0x100) = false := by decide
theorem test_illformed_reserved0_plain : wellFormed { Config.ilc with dialect := .plain } (.reserved0 0x0FF) = false := by decide
theorem test_illformed_reservedC : wellFormed (sentinelAt 0xC000) (.reservedC 0) = false := by decide
theorem test_illformed_reservedD : wellFormed (sentinelAt 0xD000) (.reservedD 0) = false := by decide
theorem test_illformed_reservedE : wellFormed (sentinelAt 0xE000) (.reservedE 0) = false := by decide
theorem test_illformed_reservedF : wellFormed (sentinelAt 0xFFFF) (.reservedF 0xFFF) = false := by decide
theorem test_illformed_byte : wellFormed Config.ilc (.byte 0x41) = false := by decide
theorem test_illformed_byte_sentinel : wellFormed { sentinelAt 0x0041 with dialect := .plain } (.byte 0x41) = false := by decide
theorem test_illformed_frame : wellFormed { Config.ilc with txMask := 0x1002 } (.serverStatus 8) = false := by decide

/-! ## Decoding: every constructor, from a word written out bit by bit (30_encoding.md R65 to R73, 95 section 2.2) -/

/-- The command nibble and the payload, bit by bit. -/
theorem test_decode_words :
    decodeWord Config.ilc 0b0001_001_11100111_0 = .write 1 0xE7 0 ∧
    decodeWord Config.ilc 0b0001_111_11111111_1 = .write 7 0xFF 1 ∧
    decodeWord Config.ilc 0b0001_000_00000000_1 = .write 0 0x00 1 ∧
    decodeWord Config.ilc 0b0010_0000_1101_1010 = .frameend ∧
    decodeWord Config.ilc 0b0010_0000_1101_1011 = .badSentinel2 0x0DB ∧
    decodeWord Config.ilc 0b0011_0000_0000_0000 = .txts 0 ∧
    decodeWord Config.ilc 0b0100_1111_1111_1111 = .delay 4095 ∧
    decodeWord Config.ilc 0b0101_0000_0000_0110 = .ldelay 6 ∧
    decodeWord Config.ilc 0b0110_0111_0000_1000 = .waitrx 1800 ∧
    decodeWord Config.ilc 0b0111_0000_0000_0000 = .irq 0 := by decide

theorem test_decode_words_high :
    decodeWord Config.ilc 0b1000_0000_0000_0000 = .waittrig 0 ∧
    decodeWord Config.ilc 0b1001_0000_0110_0101 = .lwaitrx 101 ∧
    decodeWord Config.ilc 0b1010_0000_0000_0000 = .rxend ∧
    decodeWord Config.ilc 0b1010_0000_0000_0001 = .badSentinelA 1 ∧
    decodeWord Config.ilc 0b1011_0001_0010_0011 = .rxts 0x123 ∧
    decodeWord Config.ilc 0b0000_0000_0000_0000 = .reserved0 0 ∧
    decodeWord Config.ilc 0b1100_0000_0000_0000 = .reservedC 0 ∧
    decodeWord Config.ilc 0b1101_0000_0000_0000 = .reservedD 0 ∧
    decodeWord Config.ilc 0b1110_0000_0000_0000 = .reservedE 0 ∧
    decodeWord Config.ilc 0b1111_1111_1111_1111 = .reservedF 0xFFF := by decide

/-- The PLAIN dialect: words below 0x0100 are bytes, 0x0100 is not. -/
theorem test_decode_plain :
    decodeWord { Config.ilc with dialect := .plain } 0b0000_0000_0100_0001 = .byte 0x41 ∧
    decodeWord { Config.ilc with dialect := .plain } 0b0000_0000_1111_1111 = .byte 0xFF ∧
    decodeWord { Config.ilc with dialect := .plain } 0b0000_0001_0000_0000 = .reserved0 0x100 := by decide

/-- The function bytes of the generic ILC functions and their error codes (46_ilc_layer.md R193). -/
theorem test_decode_generic_functions (a : Byte) :
    decodeFrame a 0b00010001 = .ok (.serverId a) ∧ decodeFrame a 0b10010001 = .ok (.serverIdError a) ∧
    decodeFrame a 0b00010010 = .ok (.serverStatus a) ∧ decodeFrame a 0b10010010 = .ok (.serverStatusError a) ∧
    decodeFrame a 0b01000001 = .ok (.changeMode a) ∧ decodeFrame a 0b11000001 = .ok (.changeModeError a) ∧
    decodeFrame a 0b01001000 = .ok (.setTempAddress a) ∧ decodeFrame a 0b11001000 = .ok (.setTempAddressError a) ∧
    decodeFrame a 0b01101011 = .ok (.resetServer a) ∧ decodeFrame a 0b11101011 = .ok (.resetServerError a) :=
  ⟨rfl, rfl, rfl, rfl, rfl, rfl, rfl, rfl, rfl, rfl⟩

/-- The function bytes of the electromechanical-pneumatic instance (R197 to R201). -/
theorem test_decode_em_functions (a : Byte) :
    decodeFrame a 0b01000011 = .ok (.hardpointForceStatus a) ∧ decodeFrame a 0b11000011 = .ok (.hardpointForceStatusError a) ∧
    decodeFrame a 0b01010001 = .ok (.setOffsetAndSensitivity a) ∧
    decodeFrame a 0b11010001 = .ok (.setOffsetAndSensitivityError a) ∧
    decodeFrame a 0b01101110 = .ok (.reportCalibrationData a) ∧ decodeFrame a 0b11101110 = .ok (.reportCalibrationDataError a) ∧
    decodeFrame a 0b01110111 = .ok (.mezzaninePressure a) ∧ decodeFrame a 0b11110111 = .ok (.mezzaninePressureError a) ∧
    decodeFrame a 0b00101010 = .error (.notInTable 42) :=
  ⟨rfl, rfl, rfl, rfl, rfl, rfl, rfl, rfl, rfl⟩

/-! ## One instruction word under a read operation (95 section 2.4) -/

theorem test_write_read_u8 : answer (issued (.word .readU8) [0x1FFF]) = some (some (.ok (.uint 0xFF)), 1, 0x00FF) := by decide +kernel
theorem test_byte_read_u8 :
    answer { issued (.word .readU8) [0x0041] with cfg := { Config.ilc with dialect := .plain } } =
      some (some (.ok (.uint 0x41)), 1, crcByte 0xFFFF 0x41) := by decide +kernel
theorem test_frameend_read : answer (issued (.word .readEndOfFrame) [0x20DA]) = some (some (.ok .none), 1, 0xFFFF) := by decide +kernel
theorem test_frameend_as_byte : answer (issued (.word .readU8) [0x20DA]) = some (some (.ok (.uint 0x6D)), 1, 0xAD7E) := by decide +kernel
theorem test_sentinel2_framing :
    answer (issued (.word .readEndOfFrame) [0x20DB]) = some (some (.err (.framingError 0x20DB 0)), 0, 0xFFFF) := by decide +kernel
theorem test_sentinelA_not_end : answer (issued (.word .endOfFrame) [0xA001]) = some (some (.ok (.bool false)), 0, 0xFFFF) := by
  decide +kernel
theorem test_rxend_is_end : answer (issued (.word .endOfFrame) [0xA000]) = some (some (.ok (.bool true)), 0, 0xFFFF) := by decide +kernel
theorem test_rxend_as_byte : answer (issued (.word .readU8) [0xA000]) = some (some (.ok (.uint 0)), 1, 0x40BF) := by decide +kernel
theorem test_delay_read : answer (issued (.word .readDelay) [0x4FFF]) = some (some (.ok (.uint 4095)), 1, 0xFFFF) := by decide +kernel
theorem test_delay_is_no_wait :
    answer (issued (.word .readWaitForRx) [0x4000]) = some (some (.err (.framingError 0x4000 0)), 0, 0xFFFF) := by decide +kernel
theorem test_ldelay_read : answer (issued (.word .readDelay) [0x5006]) = some (some (.ok (.uint 6000)), 1, 0xFFFF) := by decide +kernel
theorem test_waitrx_read : answer (issued (.word .readWaitForRx) [0x614F]) = some (some (.ok (.uint 335)), 1, 0xFFFF) := by decide +kernel
theorem test_waitrx_is_no_delay :
    answer (issued (.word .readDelay) [0x6000]) = some (some (.err (.framingError 0x6000 0)), 0, 0xFFFF) := by decide +kernel
theorem test_lwaitrx_read : answer (issued (.word .readWaitForRx) [0x9065]) = some (some (.ok (.uint 101000)), 1, 0xFFFF) := by
  decide +kernel
theorem test_txts_next : answer (issued (.word .next) [0x3000]) = some (some (.ok .none), 1, 0xFFFF) := by decide
theorem test_irq_peek : answer (issued (.word .peek) [0x7000]) = some (some (.ok (.word 0x7000)), 0, 0xFFFF) := by decide
theorem test_waittrig_next : answer (issued (.word .next) [0x8000]) = some (some (.ok .none), 1, 0xFFFF) := by decide
theorem test_rxts_next : answer (issued (.word .next) [0xB123]) = some (some (.ok .none), 1, 0xFFFF) := by decide
theorem test_reserved0_classify :
    answer (issued (.decodeWord 0x0000) []) = some (some (.ok (.wordClass (.reserved 0))), 0, 0xFFFF) := by decide
theorem test_reservedC_classify :
    answer (issued (.decodeWord 0xC000) []) = some (some (.ok (.wordClass (.reserved 0xC))), 0, 0xFFFF) := by decide
theorem test_reservedD_classify :
    answer (issued (.decodeWord 0xD000) []) = some (some (.ok (.wordClass (.reserved 0xD))), 0, 0xFFFF) := by decide
theorem test_reservedE_classify :
    answer (issued (.decodeWord 0xE000) []) = some (some (.ok (.wordClass (.reserved 0xE))), 0, 0xFFFF) := by decide
theorem test_reservedF_classify :
    answer (issued (.decodeWord 0xFFFF) []) = some (some (.ok (.wordClass (.reserved 0xF))), 0, 0xFFFF) := by decide
theorem test_read_u8_at_end : answer (issued (.word .readU8) []) = some (some (.err (.endOfBuffer 0)), 0, 0xFFFF) := by decide +kernel

/-! ## The other reads (95 section 2.4) -/

theorem test_read_u16 : answer (issued (.readWide .u16) [0x1224, 0x1268]) = some (some (.ok (.uint 0x1234)), 2, 0xC70C) := by decide +kernel
theorem test_read_u16_partial : answer (issued (.readWide .u16) [0x1224]) = some (some (.err (.endOfBuffer 1)), 1, 0x4D3F) := by
  decide +kernel
theorem test_read_s16 : answer (issued (.readWide .s16) [0x13FE, 0x13FC]) = some (some (.ok (.sint (-2))), 2, 0xC0C1) := by decide +kernel
theorem test_read_u48 :
    answer (issued (.readWide .u48) [0x1202, 0x1204, 0x1206, 0x1208, 0x120A, 0x120C]) =
      some (some (.ok (.uint 0x010203040506)), 6, 0xDDBA) := by decide +kernel
theorem test_read_timestamp :
    answer (issued (.readWide .timestamp) [0x1202, 0x1204, 0x1206, 0x1208, 0x120A, 0x120C, 0x120E, 0x1210]) =
      some (some (.ok (.uint 0x0807060504030201)), 8, 0xCFB0) := by decide +kernel
theorem test_read_string :
    answer (issued (.readString 3) [0x1282, 0x1284, 0x1286]) = some (some (.ok (.bytes [0x41, 0x42, 0x43])), 3, 0x8550) := by decide +kernel

/-- The CRC check after byte 08, right, swapped and cut short. -/
theorem test_check_crc :
    answer { issued .checkCrc [0x1210, 0x137C, 0x130C] with cur := 1, crc := 0x86BE } = some (some (.ok .none), 3, 0xFFFF) ∧
    answer { issued .checkCrc [0x1210, 0x130C, 0x137C] with cur := 1, crc := 0x86BE } =
      some (some (.err (.crcError 0x86BE 0xBE86)), 3, 0x86BE) ∧
    answer { issued .checkCrc [0x1210, 0x137C] with cur := 1, crc := 0x86BE } =
      some (some (.err (.endOfBuffer 2)), 2, 0x86BE) := by decide +kernel

/-! ## The CRC and the write path (95 sections 2.1, 2.3) -/

theorem test_crc_check_value :
    crcBytes 0xFFFF [0x31, 0x32, 0x33, 0x34, 0x35, 0x36, 0x37, 0x38, 0x39] = 0x4B37 := by decide +kernel
theorem test_crc_single :
    crcByte 0xFFFF 0x08 = 0x86BE ∧ crcByte 0xFFFF 0x80 = 0xE0BE ∧ crcByte 0xFFFF 0xE7 = 0x0AFF ∧
    crcBytes 0xFFFF [0x08, 0x12] = 0x7D86 := by decide +kernel
theorem test_write_u32 : emitted (.write (.u32 0xDEADBEEF)) = some ([0x13BC, 0x135A, 0x137C, 0x13DE], 0xC19B) := by decide +kernel
theorem test_write_s16 : emitted (.write (.s16 (-2))) = some ([0x13FE, 0x13FC], 0xC0C1) := by decide +kernel
theorem test_write_i24 : emitted (.write (.i24 (-8388608))) = some ([0x1300, 0x1200, 0x1200], 0x2870) := by decide +kernel
theorem test_write_i24_truncated : emitted (.write (.i24 0x1000000)) = some ([0x1200, 0x1200, 0x1200], 0xC071) := by decide +kernel
theorem test_write_float : emitted (.write (.f32 0x3F800000)) = some ([0x127E, 0x1300, 0x1200, 0x1200], 0xD80D) := by decide +kernel
theorem test_write_crc_alone : emitted .writeCrc = some ([0x13FE, 0x13FE], 0xFFFF) := by decide +kernel

/-- Long times, by both roundings. -/
theorem test_long_times :
    timeWord .ceilPlusOne 4 5 4096 = 0x5006 ∧ timeWord .truncPlusOne 4 5 4096 = 0x5005 ∧
    timeWord .ceilPlusOne 6 9 36500 = 0x9026 ∧ timeWord .truncPlusOne 6 9 36500 = 0x9025 ∧
    timeWord .ceilPlusOne 4 5 4093001 = 0x5FFF ∧ timeWord .truncPlusOne 4 5 4093001 = 0x5FFE ∧
    timeWord .ceilPlusOne 4 5 5000000 = 0x5FFF := by decide +kernel

/-! ## The function codes (95 sections 1.2, 2.5, 2.7) -/

/-- V1's reply, and V4's. -/
def statusReply (last : Word) : State :=
  reply [(8, 18)] [0x1210, 0x1224, 0x1204, 0x1200, 0x1200, 0x1200, 0x1200, 0x13D0, last]

theorem test_server_status :
    replied (statusReply 0x12E4) =
      some (some (.ok .none), [.decoded 18 8 [(.mode, .uint 2), (.status, .uint 0), (.faults, .uint 0)]], []) ∧
    (next (statusReply 0x12E4)).map (fun t => (t.lastMode, t.cached 8 18)) =
      some ([(8, 2)], some [2, 0, 0, 0, 0]) := by decide +kernel
theorem test_server_status_crc_error :
    replied (statusReply 0x12E6) = some (some (.err (.crcError 0x72E8 0x73E8)), [], []) ∧
    (next (statusReply 0x12E6)).map (fun t => (t.lastMode, t.cached 8 18)) = some ([], none) := by decide +kernel
theorem test_server_status_error :
    replied (reply [(8, 18)] [0x1210, 0x1324, 0x1204, 0x1238, 0x1346]) =
      some (some (.err (.exception 8 146 2)), [], []) := by decide +kernel
theorem test_server_status_unmatched :
    replied (reply [(8, 18), (9, 18)] [0x1212, 0x1224]) =
      some (some (.err (.unmatchedFunction 9 18 (some (8, 18)))), [], [(9, 18)]) := by decide +kernel
theorem test_server_id :
    replied (reply [(8, 17)] [0x1210, 0x1222, 0x121C, 0x1200, 0x1202, 0x1204, 0x1206, 0x1208, 0x120A, 0x1202, 0x1204, 0x1206,
        0x1208, 0x120A, 0x120C, 0x1282, 0x1284, 0x12F8, 0x127C]) =
      some (some (.ok .none), [.decoded 17 8 [(.length, .uint 14), (.uniqueId, .uint 0x000102030405), (.ilcAppType, .uint 1),
        (.networkNodeType, .uint 2), (.ilcSelectedOptions, .uint 3), (.networkNodeOptions, .uint 4), (.majorRev, .uint 5),
        (.minorRev, .uint 6), (.firmwareName, .bytes [0x41, 0x42])]], []) := by decide +kernel
theorem test_change_mode :
    (next (reply [(7, 65)] [0x120E, 0x1282, 0x1200, 0x1206, 0x1222, 0x128A])).map (fun t => (t.result, t.lastMode)) =
      some (some (.ok .none), [(7, 3)]) := by decide +kernel
theorem test_set_temp_address :
    replied (reply [(8, 72)] [0x1210, 0x1290, 0x1212, 0x120C, 0x1208]) =
      some (some (.ok .none), [.decoded 72 8 [(.newAddress, .uint 9)]], []) := by decide +kernel
theorem test_reset_server :
    replied (reply [(8, 107)] [0x1210, 0x12D6, 0x128E, 0x133E]) = some (some (.ok .none), [.decoded 107 8 []], []) := by
  decide +kernel
theorem test_hardpoint_force_status :
    replied (reply [(8, 67)] [0x1210, 0x1286, 0x1202, 0x1200, 0x1200, 0x1206, 0x13D0, 0x1382, 0x1290, 0x1200, 0x1200, 0x121C,
        0x1202]) =
      some (some (.ok .none), [.decoded 67 8 [(.status, .uint 1), (.encoderPosition, .sint 1000),
        (.loadCellForce, .f32 0xC1480000)]], []) := by decide +kernel
theorem test_mezzanine_pressure :
    replied (reply [(18, 119)] [0x1224, 0x12EE, 0x1280, 0x1292, 0x121E, 0x13B0, 0x127E, 0x1358, 0x1278, 0x133E, 0x1384, 0x13FE,
        0x12A0, 0x12C4, 0x1380, 0x1292, 0x12CA, 0x1258, 0x1240, 0x122C]) =
      some (some (.ok .none), [.mezzaninePressure 18 0x40490FD8 0x3FAC3C9F 0xC049652C 0xC2FF5062], []) := by decide +kernel

/-- S2's reply, its 100 words. -/
def calibrationReply : List Word :=
  [0x1222, 0x12DC, 0x1200, 0x1200, 0x1200, 0x1200, 0x1280, 0x1292, 0x121E, 0x13B0, 0x1280, 0x1392, 0x121E, 0x13B0, 0x1282,
   0x122C, 0x1396, 0x13C4, 0x1200, 0x1200, 0x1200, 0x1200, 0x1280, 0x1200, 0x1200, 0x1200, 0x1280, 0x1300, 0x1200, 0x1200,
   0x1280, 0x1380, 0x1200, 0x1200] ++
  [0x1200, 0x1200, 0x1200, 0x1200, 0x1384, 0x12C2, 0x1290, 0x139C, 0x1384, 0x13C2, 0x1290, 0x139C, 0x1386, 0x1250, 0x13EC,
   0x1336, 0x1200, 0x1200, 0x1200, 0x1200, 0x1288, 0x13F8, 0x1364, 0x130C, 0x128A, 0x12F8, 0x1364, 0x130C, 0x128A, 0x137A,
   0x130A, 0x13C8] ++
  [0x1200, 0x1200, 0x1200, 0x1200, 0x129C, 0x1278, 0x127E, 0x1268, 0x129C, 0x1378, 0x127E, 0x1268, 0x129E, 0x121A, 0x125E,
   0x12CE, 0x1200, 0x1200, 0x1200, 0x1200, 0x1390, 0x13D2, 0x13BC, 0x13DC, 0x1392, 0x12D2, 0x13BC, 0x13DC, 0x1392, 0x135E,
   0x12CE, 0x1266, 0x1220, 0x12F4]

/-- S2's patterns, by group. -/
def calibrationPatterns (g : CalGroup) (i : Fin 4) : BitVec 32 :=
  match g, i with
  | .mainADCK, 1 => 0x40490FD8 | .mainADCK, 2 => 0x40C90FD8 | .mainADCK, 3 => 0x4116CBE2
  | .mainOffset, 1 => 0x40000000 | .mainOffset, 2 => 0x40800000 | .mainOffset, 3 => 0x40C00000
  | .mainSensitivity, 1 => 0xC26148CE | .mainSensitivity, 2 => 0xC2E148CE | .mainSensitivity, 3 => 0xC328F69B
  | .backupADCK, 1 => 0x44FCB286 | .backupADCK, 2 => 0x457CB286 | .backupADCK, 3 => 0x45BD85E4
  | .backupOffset, 1 => 0x4E3C3F34 | .backupOffset, 2 => 0x4EBC3F34 | .backupOffset, 3 => 0x4F0D2F67
  | .backupSensitivity, 1 => 0xC8E9DEEE | .backupSensitivity, 2 => 0xC969DEEE | .backupSensitivity, 3 => 0xC9AF6733
  | _, 0 => 0

/-- S2's reply is a frame of those patterns, group by group, in the order the statement about function 110 reads them. -/
theorem test_report_calibration_data :
    calibrationReply = ([17, 110] ++ Claims.calibrationBytes calibrationPatterns ++ [0x10, 0x7A]).map Config.ilc.encByte := by
  decide +kernel

/-- Function 81 has no payload in its reply (46_ilc_layer.md R197); the CRC of bytes 08 51 is worked out by R106. -/
theorem test_set_offset_reply :
    replied (reply [(8, 81)] [0x1210, 0x12A2, Config.ilc.encByte (crcLow (crcBytes 0xFFFF [8, 81])),
        Config.ilc.encByte (crcHigh (crcBytes 0xFFFF [8, 81]))]) =
      some (some (.ok .none), [.decoded 81 8 []], []) := by decide +kernel

/-- A reply of error code `f` from address 8 with exception byte 2, whose CRC is worked out by R106. -/
def errorWords (f : Byte) : List Word :=
  ([8, f, 2, crcLow (crcBytes 0xFFFF [8, f, 2]), crcHigh (crcBytes 0xFFFF [8, f, 2])] : List Byte).map Config.ilc.encByte

/-- R159 for every error code of the table: paired with its normal code, without a handler. -/
theorem test_error_replies :
    [(145, 17), (146, 18), (193, 65), (200, 72), (235, 107), (195, 67), (209, 81), (238, 110), (247, 119)].map
        (fun p : Byte × Byte => replied (reply [(8, p.2)] (errorWords p.1))) =
      [145, 146, 193, 200, 235, 195, 209, 238, 247].map
        (fun f : Byte => some (some (.err (.exception 8 f 2)), [], [])) := by decide +kernel

theorem test_unknown_function :
    replied (reply [(8, 42)] [0x1210, 0x1254]) = some (some (.err (.unknownResponse 8 42)), [], []) := by decide +kernel

/-! ## Requests, the recorder, the ILC layer, recovery (95 sections 1.2, 2.5 to 2.8) -/

theorem test_call_function :
    (next (issued (.request (.callFunction 8 18 1800 [])) [])).map (fun t => (t.buf, t.cq)) =
      some ([0x1210, 0x1224, 0x130C, 0x12FA, 0x20DA, 0x6708], [(8, 18)]) := by decide +kernel
theorem test_broadcast_function :
    (next (issued (.request (.broadcastFunction 250 65 1 1000 [] 0)) [])).map (fun t => (t.buf, t.cq)) =
      some ([0x13F4, 0x1282, 0x1202, 0x1340, 0x12C2, 0x20DA, 0x43E8], []) := by decide +kernel
theorem test_change_ilc_mode :
    (next { issued (.request (.changeIlcMode 7 3)) [] with lastMode := [(7, 0)] }).map State.buf =
      some [0x120E, 0x1282, 0x1200, 0x1206, 0x1222, 0x128A, 0x20DA, 0x9065] ∧
    (next { issued (.request (.changeIlcMode 7 1)) [] with lastMode := [(7, 2)] }).map State.buf =
      some [0x120E, 0x1282, 0x1200, 0x1202, 0x1320, 0x1308, 0x20DA, 0x614F] := by decide +kernel
theorem test_set_offset_request :
    (next (issued (.request (.setOffsetAndSensitivity 231 1 0x4015C28F 0xC091EB85)) [])).map State.buf =
      some [0x13CE, 0x12A2, 0x1202, 0x1280, 0x122A, 0x1384, 0x131E, 0x1380, 0x1322, 0x13D6, 0x130A, 0x13E6, 0x126A, 0x20DA,
        0x9026] := by decide +kernel
theorem test_buffer_full :
    (next { issued (.request (.callFunction 8 18 1800 [])) [] with cfg := { Config.ilc with bufWords := some 3 } }).map
        (fun t => (t.result, t.buf, t.crc, t.cq)) =
      some (some (.err (.bufferFull 3)), [0x1210, 0x1224, 0x130C], 0x7D86, []) := by decide +kernel
theorem test_queue_full :
    (next { issued (.request (.callFunction 8 18 1800 [])) [] with
        cfg := { Config.ilc with qDepth := some 1 }, cq := [(9, 18)] }).map (fun t => (t.result, t.buf.length, t.crc, t.cq)) =
      some (some (.err (.queueFull 8 18)), 6, 0xFFFF, [(9, 18)]) := by decide +kernel
theorem test_commanded_text : commandedText [(8, 18), (9, 18)] = "8:18,9:18" := by decide +kernel
theorem test_check_recording :
    checkRecording (some [0x10, 0x21]) { State.reset with record := [0x10, 0x20] } = (false, [0x10, 0x20]) ∧
    checkRecording none State.reset = (false, []) ∧ checkRecording (some []) State.reset = (true, []) := by decide
theorem test_mode_timeout :
    modeTimeout (some 0) 3 = 100000 ∧ modeTimeout (some 3) 0 = 100000 ∧ modeTimeout (some 2) 1 = 335 ∧
    modeTimeout none 2 = 335 ∧ modeTimeout none 3 = 100000 := by decide
theorem test_process_response_delimiter :
    (next { issued (.processResponse [0xA000, 0x1210, 0x12D6, 0x128E, 0x133E] 5) [] with
        cq := [(8, 107)], cfg := { Config.ilc with rxDelimiterPolicy := .skip } }).map (fun t => (t.result, t.cur, t.cq)) =
      some (some (.ok .none), 5, []) ∧
    (next { issued (.processResponse [0xA000, 0x1210, 0x12D6, 0x128E, 0x133E] 5) [] with cq := [(8, 107)] }).map
        (fun t => (t.result, t.cur, t.cq)) =
      some (some (.err (.unmatchedFunction 0 8 (some (8, 107)))), 2, []) := by decide +kernel

/-- The simulator's codec. -/
def plain : Config := { Config.ilc with dialect := .plain }

/-! ## Open values and the driver (93 row 10, 44_dispatch.md R152 and R166, 60_exceptions.md R235) -/

/-- A reserved word is not sent, a WRITE word is. -/
theorem test_send_reserved :
    step (issued (.writeCommandFifo [0x1210, 0xC000] 2 0) []) = .refused .reservedWord ∧
    (next (issued (.writeCommandFifo [0x1210, 0xC000] 1 0) [])).map (fun t => t.driver.commandFifo) = some [0x1210] ∧
    step { issued (.arbiter (.advance 0)) [0x0000] with arb := .send } = .refused .reservedWord :=
  ⟨rfl, by decide +kernel, rfl⟩

/-- In the PLAIN dialect nibble 0x0 is not reserved, and a wait command of 0x0 or 0xC is sent (R30, R74); 0xD is not. -/
theorem test_send_plain :
    (next { issued (.writeCommandFifo [0x0041, 0x0708, 0xC065] 3 0) [] with
        cfg := { plain with waitShortCmd := 0x0, waitLongCmd := 0xC } }).map (fun t => t.driver.commandFifo) =
      some [0x0041, 0x0708, 0xC065] ∧
    step { issued (.writeCommandFifo [0xD065] 1 0) [] with cfg := { plain with waitShortCmd := 0x0, waitLongCmd := 0xC } } =
      .refused .reservedWord := ⟨by decide +kernel, rfl⟩

/-- Phase 1 of nothing returns a count of 0, and phase 2 of that length no word. -/
theorem test_response_of_nothing :
    (next (issued (.readU16ResponseFifo 1 0) [])).map (fun t => (t.result, t.driver.counted)) = some (some (.ok (.words [0])), some 0) ∧
    (next { issued (.readU16ResponseFifo 0 0) [] with
        driver := { commandFifo := [], requests := [], responseFifo := [], counted := some 0 } }).map
      (fun t => (t.result, t.driver.counted)) = some (some (.ok (.words [])), none) := by decide +kernel

/-- `SET_MODE` of a float stores the low byte of its pattern; the first data byte of a broadcast is its own, whatever the one
past the end is. -/
theorem test_open_values :
    (next { reply [(8, 42)] [0x1210, 0x1254, 0x1280, 0x1292, 0x121E, 0x13B0] with
        cfg := { Config.ilc with registry := [⟨42, [.read (.wide .f32) .mode, .setMode .mode], 170, none⟩] } }).map State.lastMode =
      some [(8, 0xD8)] ∧
    (next (issued (.request (.broadcastFunction 250 65 1 1000 [5] 2)) [])).map (fun t => (t.buf.take 4, t.buf.length, t.free)) =
      some ([0x13F4, 0x1282, 0x1202, 0x120A], 9, 1) := by decide +kernel

/-! ## Witnesses: for every statement with hypotheses, a state and operands that meet them all -/

/-- A block after power-on whose registry hands error replies to handler 1. -/
def handled : Config := { Config.ilc with registry := emRegistry { RegistryParams.default with ilcHandlers := some 1 } }

/-- A block whose cursor is before these bytes. -/
def before (q : List (Byte × Byte)) (bs : List Byte) : State :=
  { State.reset with cq := q, buf := bs.map Config.ilc.encByte }

/-- A block whose cursor is before this payload and its CRC. -/
def beforeReply (q : List (Byte × Byte)) (bs : List Byte) : State :=
  before q (bs ++ [crcLow (crcBytes 0xFFFF bs), crcHigh (crcBytes 0xFFFF bs)])

theorem ahead_before (q : List (Byte × Byte)) (bs : List Byte) : Claims.ahead (before q bs) bs := by
  show bs <+: (bs.map Config.ilc.encByte).map Config.ilc.decByte
  rw [map_decByte_map_encByte (by decide)]

theorem replyAhead_beforeReply (q : List (Byte × Byte)) (bs : List Byte) : Claims.replyAhead (beforeReply q bs) bs :=
  ahead_before q _

theorem test_witness_DecodeOfEncodeIsTheInstruction :
    wellFormed Config.ilc (.write 7 0xFF 1) = true ∧ wellFormed plain (.byte 0xFF) = true ∧
    wellFormed plain (.reserved0 0x100) = true ∧ wellFormed Config.ilc (.mezzaninePressureError 255) = true := by decide

theorem test_witness_EncodeOfDecodeIsTheWord :
    decodeFrame 255 247 = .ok (.mezzaninePressureError 255) ∧ decodeFrame 255 0 = .error (.notInTable 0) ∧
    decodeFrame 0 255 = .error (.notInTable 255) := ⟨rfl, rfl, rfl⟩

theorem test_witness_IlcDialectEncoding :
    State.reset.cfg = Config.ilc ∧ (0xFFF : Micros).toNat ≤ 0xFFF ∧ 0xFFF < (0x1000 : Micros).toNat ∧
    0xFFF < (0xFFFFFFFF : Micros).toNat := by decide

theorem test_witness_NextAndPeekTakeAnyWord :
    (Instr.txts 0xFFF).level = .word ∧ encode (issued (.word .next) []).cfg (.txts 0xFFF) = [0x3FFF] ∧
    (issued (.word .next) []).wordOp = some .next ∧ (issued (.word .peek) []).wordOp = some .peek := by decide

theorem test_witness_ByteReadTakesAnyWord :
    (Instr.reservedF 0xFFF).level = .word ∧ encode Config.ilc (.reservedF 0xFFF) = [0xFFFF] ∧
    (Config.ilc.dialect = .ilc → (0xFF : Byte) = (0xFFFF : Word).extractLsb' 1 8) ∧
    (Config.ilc.dialect = .plain → (0xFF : Byte) = (0xFFFF : Word).extractLsb' 0 8) ∧
    encode plain (.byte 0x41) = [0x0041] ∧ (plain.dialect = .ilc → (0x41 : Byte) = (0x0041 : Word).extractLsb' 1 8) ∧
    (plain.dialect = .plain → (0x41 : Byte) = (0x0041 : Word).extractLsb' 0 8) ∧
    (issued (.word .readU8) []).wordOp = some .readU8 ∧ (issued (.word .readS8) []).wordOp = some .readS8 := by decide

/-- The neighbours of the two delay nibbles: 0x3 and 0x6. -/
theorem test_witness_ReadDelayOnEveryWord :
    (issued (.word .readDelay) []).wordOp = some .readDelay ∧
    encode Config.ilc (.txts 0xFFF) = [0x3FFF] ∧ nibble 0x3FFF ≠ 0x4 ∧ nibble 0x3FFF ≠ 0x5 ∧
    encode Config.ilc (.waitrx 0) = [0x6000] ∧ nibble 0x6000 ≠ 0x4 ∧ nibble 0x6000 ≠ 0x5 := by decide

/-- The neighbours of the two ILC wait nibbles, 0x5, 0x7, 0x8 and 0xA, those nibbles themselves, and a dialect with one wait
command for both, where the short one counts. -/
theorem test_witness_ReadWaitOnEveryWord :
    (issued (.word .readWaitForRx) []).wordOp = some .readWaitForRx ∧ State.reset.cfg.waitShortCmd = 0x6 ∧
    State.reset.cfg.waitLongCmd = 0x9 ∧ [0x5FFF, 0x7000, 0x8FFF, 0xA001].all (fun w => nibble w ≠ 0x6 && nibble w ≠ 0x9) = true ∧
    encode Config.ilc (.ldelay 0xFFF) = [0x5FFF] ∧ encode Config.ilc (.irq 0) = [0x7000] ∧
    encode Config.ilc (.waittrig 0xFFF) = [0x8FFF] ∧ encode Config.ilc (.badSentinelA 1) = [0xA001] ∧
    encode Config.ilc (.waitrx 0) = [0x6000] ∧ nibble 0x6000 = 0x6 ∧
    encode Config.ilc (.lwaitrx 0xFFF) = [0x9FFF] ∧ nibble 0x9FFF ≠ 0x6 ∧ nibble 0x9FFF = 0x9 ∧
    nibble 0x7000 = ({ Config.ilc with waitShortCmd := 0x7, waitLongCmd := 0x7 }).waitShortCmd := by decide

theorem test_witness_SentinelTestsOnEveryWord :
    (issued (.word .readEndOfFrame) []).wordOp = some .readEndOfFrame ∧
    (issued (.word .endOfFrame) []).wordOp = some .endOfFrame ∧ Config.ilc.rxEndframe ≠ Config.ilc.txFrameend ∧
    wellFormed Config.ilc (.badSentinel2 0x0DB) = true ∧ encode Config.ilc (.badSentinel2 0x0DB) = [0x20DB] ∧
    wellFormed Config.ilc .rxend = true ∧ encode Config.ilc .rxend = [0xA000] ∧ wellFormed Config.ilc .frameend = true ∧
    (Instr.badSentinel2 0x0DB).level = .word ∧ Instr.rxend ≠ .frameend ∧ Instr.frameend ≠ .rxend := by decide

theorem test_witness_ClassifyIsDecodeWord : (issued (.decodeWord 0xFFFF) []).ops = .decodeWord 0xFFFF :: [] := by decide

/-- One-word reads at the end; a CRC check with no word left and with one. -/
theorem test_witness_WordReadsAtTheEndOfTheBuffer :
    (issued (.word .peek) []).ops = .word .peek :: [] ∧ (issued (.word .peek) []).buf.length ≤ (issued (.word .peek) []).cur ∧
    (issued (.word .endOfFrame) []).ops = .word .endOfFrame :: [] ∧ (issued .checkCrc []).ops = .checkCrc :: [] ∧
    (issued .checkCrc []).buf.length ≤ (issued .checkCrc []).cur ∧
    (issued .checkCrc [0x1200]).buf.length = (issued .checkCrc [0x1200]).cur + 1 := by decide

theorem test_witness_StepRunsTheDecodedInstruction :
    State.reset.ops = [] ∧ (issued (.word .next) [0xFFFF]).ops = .word .next :: [] ∧
    (issued (.word .next) [0xFFFF]).buf[0]? = some 0xFFFF ∧ (reply [] [0x13FE, 0x13EE]).ops = .frame :: [] ∧
    (reply [] [0x13FE, 0x13EE]).buf[1]? = some 0x13EE ∧ Config.ilc.rxDelimiterPolicy = .keep ∧
    (0x13FE : Word) ≠ Config.ilc.rxEndframe := by decide

theorem test_witness_StepRuns_frame_decodes :
    decodeFrame (Config.ilc.decByte 0x13FE) (Config.ilc.decByte 0x13EE) = .ok (.mezzaninePressureError 255) := rfl

/-- A function byte that is no row, the end of the buffer, a delimiter under `SKIP`, and a chunk that ends after the address. -/
theorem test_witness_StepRuns_other_frames :
    (∀ i, decodeFrame (Config.ilc.decByte 0x1210) (Config.ilc.decByte 0x1254) ≠ .ok i) ∧
    (reply [] []).buf.length ≤ (reply [] []).cur ∧ (reply [] [0xA000]).buf[0]? = some 0xA000 ∧
    ({ Config.ilc with rxDelimiterPolicy := .skip }).rxDelimiterPolicy = .skip ∧ (0xA000 : Word) = Config.ilc.rxEndframe ∧
    (reply [] [0x1210]).buf[0]? = some 0x1210 ∧ (reply [] [0x1210]).buf.length = (reply [] [0x1210]).cur + 1 ∧
    (0x1210 : Word) ≠ Config.ilc.rxEndframe :=
  ⟨fun i h => (nomatch (show (.error (.notInTable 42) : Except DecodeError Instr) = .ok i from h)), by decide, rfl, rfl, rfl, rfl, rfl, by decide⟩

theorem test_witness_FetchedTableWordRuns :
    decodeTableWord 16 0xFFFF = some (.reservedF 0xFFF) ∧ decodeTableWord 16 0 = some (.byte 0) ∧
    decodeTableWord 16 0x0100 = some (.reserved0 0x100) ∧ decodeTableWord 8 0xF7 = some (.mezzaninePressureError 0) ∧
    decodeTableWord 8 0x11 = some (.serverId 0) := ⟨rfl, rfl, rfl, rfl, rfl⟩

/-- The hardware's registry decodes every normal code with the spec's default decoder. -/
theorem registered_ilc :
    Claims.registered Config.ilc 18 (decoder18 .mode) ∧ Claims.registered Config.ilc 65 (decoder65 .mode) ∧
    Claims.registered Config.ilc 17 decoder17 ∧ Claims.registered Config.ilc 72 decoder72 ∧
    Claims.registered Config.ilc 107 decoder107 ∧ Claims.registered Config.ilc 81 decoder81 ∧
    Claims.registered Config.ilc 67 decoder67 ∧ Claims.registered Config.ilc 119 decoder119 ∧
    Claims.registered Config.ilc 110 decoder110 :=
  ⟨⟨⟨_, rfl, rfl⟩, rfl⟩, ⟨⟨_, rfl, rfl⟩, rfl⟩, ⟨⟨_, rfl, rfl⟩, rfl⟩, ⟨⟨_, rfl, rfl⟩, rfl⟩, ⟨⟨_, rfl, rfl⟩, rfl⟩,
   ⟨⟨_, rfl, rfl⟩, rfl⟩, ⟨⟨_, rfl, rfl⟩, rfl⟩, ⟨⟨_, rfl, rfl⟩, rfl⟩, ⟨⟨_, rfl, rfl⟩, rfl⟩⟩

theorem test_witness_ServerStatusReplyDecodes :
    Claims.registered (beforeReply [(8, 18)] [2, 0, 0, 0, 0]).cfg 18 (decoder18 .mode) ∧
    (beforeReply [(8, 18)] [2, 0, 0, 0, 0]).cq = (8, 18) :: [] ∧
    Claims.replyAhead (beforeReply [(8, 18)] [2, 0, 0, 0, 0]) [2, 0, 0, 0, 0] :=
  ⟨registered_ilc.1, rfl, replyAhead_beforeReply _ _⟩

theorem test_witness_ServerStatusCrcErrorLeavesTables :
    Claims.registered (before [(8, 18)] [2, 0, 0, 0, 0, 0xE8, 0x73]).cfg 18 (decoder18 .mode) ∧
    (before [(8, 18)] [2, 0, 0, 0, 0, 0xE8, 0x73]).cq = (8, 18) :: [] ∧
    Claims.ahead (before [(8, 18)] [2, 0, 0, 0, 0, 0xE8, 0x73]) [2, 0, 0, 0, 0, 0xE8, 0x73] ∧
    crcOfBytes 0xE8 0x73 ≠ crcBytes (before [(8, 18)] [2, 0, 0, 0, 0, 0xE8, 0x73]).crc [2, 0, 0, 0, 0] :=
  ⟨registered_ilc.1, rfl, ahead_before _ _, by decide +kernel⟩

theorem test_witness_ChangeModeReplyDecodes :
    Claims.registered (beforeReply [(7, 65)] [0, 3]).cfg 65 (decoder65 .mode) ∧
    (beforeReply [(7, 65)] [0, 3]).cq = (7, 65) :: [] ∧ Claims.replyAhead (beforeReply [(7, 65)] [0, 3]) [0, 3] :=
  ⟨registered_ilc.2.1, rfl, replyAhead_beforeReply _ _⟩

/-- The lengths 12 (no name), 255 (the longest name), 11 and 0 (none to read). -/
theorem test_witness_ServerIdReplyDecodes :
    (∀ l ∈ ([12, 255] : List Byte), 12 ≤ l.toNat ∧ ∃ name : List Byte, name.length = l.toNat - 12 ∧
      Claims.replyAhead (beforeReply [(8, 17)] ([l, 0, 1, 2, 3, 4, 5, 1, 2, 3, 4, 5, 6] ++ name))
        ([l, 0, 1, 2, 3, 4, 5, 1, 2, 3, 4, 5, 6] ++ name)) ∧
    (∀ l ∈ ([11, 0] : List Byte), l.toNat < 12 ∧
      Claims.ahead (before [(8, 17)] [l, 0, 1, 2, 3, 4, 5, 1, 2, 3, 4, 5, 6]) [l, 0, 1, 2, 3, 4, 5, 1, 2, 3, 4, 5, 6]) ∧
    Claims.registered Config.ilc 17 decoder17 := by
  refine ⟨fun l hl => ⟨?_, List.replicate (l.toNat - 12) 0x41, by simp, replyAhead_beforeReply _ _⟩,
    fun l hl => ⟨?_, ahead_before _ _⟩, registered_ilc.2.2.1⟩ <;> revert l <;> decide

theorem test_witness_PlainRepliesDecode :
    (Claims.registered Config.ilc 72 decoder72 ∧ Claims.replyAhead (beforeReply [(8, 72)] [9]) [9]) ∧
    (Claims.registered Config.ilc 107 decoder107 ∧ Claims.replyAhead (beforeReply [(8, 107)] []) []) ∧
    (Claims.registered Config.ilc 81 decoder81 ∧ Claims.replyAhead (beforeReply [(8, 81)] []) []) :=
  ⟨⟨registered_ilc.2.2.2.1, replyAhead_beforeReply _ _⟩, ⟨registered_ilc.2.2.2.2.1, replyAhead_beforeReply _ _⟩,
   ⟨registered_ilc.2.2.2.2.2.1, replyAhead_beforeReply _ _⟩⟩

theorem test_witness_HardpointReplyDecodes :
    Claims.registered Config.ilc 67 decoder67 ∧
    Claims.replyAhead (beforeReply [(8, 67)] (1 :: (Claims.be32 0xFFFFFFFF ++ Claims.be32 0xC1480000)))
      (1 :: (Claims.be32 0xFFFFFFFF ++ Claims.be32 0xC1480000)) :=
  ⟨registered_ilc.2.2.2.2.2.2.1, replyAhead_beforeReply _ _⟩

theorem test_witness_MezzaninePressureReorders :
    Claims.registered Config.ilc 119 decoder119 ∧
    Claims.replyAhead (beforeReply [(18, 119)] (Claims.be32 1 ++ Claims.be32 2 ++ Claims.be32 3 ++ Claims.be32 4))
      (Claims.be32 1 ++ Claims.be32 2 ++ Claims.be32 3 ++ Claims.be32 4) :=
  ⟨registered_ilc.2.2.2.2.2.2.2.1, replyAhead_beforeReply _ _⟩

theorem test_witness_CalibrationReportIsGroupMajor :
    Claims.registered Config.ilc 110 decoder110 ∧
    Claims.replyAhead (beforeReply [(17, 110)] (Claims.calibrationBytes calibrationPatterns))
      (Claims.calibrationBytes calibrationPatterns) :=
  ⟨registered_ilc.2.2.2.2.2.2.2.2, replyAhead_beforeReply _ _⟩

/-- Every error code of the table, without a handler; and the generic ones with one. -/
theorem test_witness_ErrorRepliesReachHandlerOrRaise :
    (∀ r ∈ Claims.errorReplies 8, ∃ e, Config.ilc.errorEntry r.2.1 = some e ∧ e.normal = r.2.2 ∧ e.handler = none ∧
      Config.ilc.normalEntry r.2.1 = none) ∧
    (∃ e, handled.errorEntry 146 = some e ∧ e.normal = 18 ∧ e.handler = some 1 ∧ handled.normalEntry 146 = none) ∧
    (beforeReply [(8, 18)] [2]).cq = (8, 18) :: [] ∧ Claims.replyAhead (beforeReply [(8, 18)] [2]) [2] := by
  refine ⟨?_, ⟨_, rfl, rfl, rfl, rfl⟩, rfl, replyAhead_beforeReply _ _⟩
  intro r hr
  simp only [Claims.errorReplies, List.mem_cons, List.not_mem_nil, or_false] at hr
  rcases hr with rfl | rfl | rfl | rfl | rfl | rfl | rfl | rfl | rfl <;> exact ⟨_, rfl, rfl, rfl, rfl⟩

/-- An empty queue; another address; and a head that names the error code itself, where its normal code is expected. -/
theorem test_witness_UnpairedReplyIsUnmatched :
    decodeFrame 8 18 = .ok (.serverStatus 8) ∧ State.reset.cq = [] ∧ ((9, 18) : Byte × Byte) ≠ (8, 18) ∧
    decodeFrame 8 146 = .ok (.serverStatusError 8) ∧
    ((8, 146) : Byte × Byte) ≠ (8, match Config.ilc.errorEntry 146 with | some e => e.normal | none => 146) :=
  ⟨rfl, rfl, by decide, rfl, by decide⟩

theorem test_witness_UnknownFunctionStopsDispatch :
    Config.ilc.normalEntry 42 = none ∧ Config.ilc.errorEntry 42 = none ∧ (before [(8, 42)] []).cq = (8, 42) :: [] :=
  ⟨rfl, rfl, rfl⟩

theorem test_witness_FrameInstructionsFrame :
    decodeFrame 8 107 = .ok (.resetServer 8) ∧ ∃ t, exec (.resetServer 8) (beforeReply [(8, 107)] []) = .next t := ⟨rfl, _, rfl⟩

theorem test_witness_CrcChecksItselfAndSeesOneWrongByte : (0x00 : Byte) ≠ 0x80 := by decide

theorem readBytes_before (bs : List Byte) : ∃ t, readBytes bs.length (before [] bs) = .ok bs t :=
  ⟨_, readBytes_of_ahead (ahead_before [] bs)⟩

theorem test_witness_FloatAndI24WritesAreBitPatterns :
    ∃ t, readBytes 4 (before [] (Claims.be32 0x7FC00000)) = .ok (Claims.be32 0x7FC00000) t :=
  readBytes_before (Claims.be32 0x7FC00000)

theorem room_reset (n : Nat) : Claims.room State.reset n := fun _ h => nomatch h

/-- A block whose buffer is bounded by `n` words and holds these. -/
def bounded (n : Nat) (ws : List Word) : State :=
  { State.reset with cfg := { Config.ilc with bufWords := some n }, buf := ws }

theorem room_bounded {n k : Nat} {ws : List Word} (h : ws.length + k ≤ n) : Claims.room (bounded n ws) k := by
  rintro m ⟨⟩; exact h

/-- An unbounded buffer; a bound met exactly; a bound with room for one byte of two; a bound that is already met; and for the
CRC room for two words, for one and for none. -/
theorem test_witness_WrittenBytesAppendUpToTheBound :
    Claims.room State.reset 2 ∧ Claims.room (bounded 3 [0x1200]) 2 ∧
    (([0x1200] : List Word).length ≤ 2 ∧ 2 < ([0x1200] : List Word).length + ([1, 2] : List Byte).length) ∧
    (([0x1200, 0x1200] : List Word).length ≤ 2 ∧ 2 < ([0x1200, 0x1200] : List Word).length + ([1] : List Byte).length) ∧
    (bounded 1 [0x1200]).cfg.bufWords = some (bounded 1 [0x1200]).buf.length ∧
    (bounded 2 [0x1200]).cfg.bufWords = some ((bounded 2 [0x1200]).buf.length + 1) :=
  ⟨room_reset 2, room_bounded (by decide), by decide, by decide, rfl, rfl⟩

theorem test_witness_CrcIsLittleEndianInTheFrame :
    Claims.unbounded State.reset ∧ Claims.ahead (before [] [0xFF, 0xFF]) [0xFF, 0xFF] ∧ Claims.ahead (before [] [0, 0]) [0, 0] :=
  ⟨rfl, ahead_before _ _, ahead_before _ _⟩

theorem test_witness_TimeWordsReadBack :
    (0x4 : Nibble) ≠ 0x5 ∧ (0x6 : Nibble) ≠ 0x9 ∧ (4095 : Micros).toNat ≤ 4095 ∧ 4096 ≤ (4096 : Micros).toNat ∧
    (4095000 : Micros).toNat ≤ 4095000 ∧ 4095000 ≤ (4095000 : Micros).toNat ∧ 4095000 ≤ (0xFFFFFFFF : Micros).toNat := by decide

theorem test_witness_ControlWordWritesAppendOneWord :
    (issued (.writeDelay 4096) []).ops = .writeDelay 4096 :: [] ∧
    (issued (.writeWaitForRx 4095) []).ops = .writeWaitForRx 4095 :: [] ∧
    (issued .writeEndOfFrame []).ops = .writeEndOfFrame :: [] ∧ (issued .writeRxEndFrame []).ops = .writeRxEndFrame :: [] ∧
    ({ Config.ilc with bufWords := some 1 }).bufWords = some ([0x1200] : List Word).length := by decide

theorem test_witness_WritesOnlyAppend :
    Claims.writes .writeCrc = true ∧ (∃ t, step (issued .writeCrc [0x1200]) = .next t) ∧
    Claims.writes (.request (.serverId 8)) = true ∧ (∃ t, step (issued (.request (.serverId 8)) [0x1200]) = .next t) :=
  ⟨rfl, ⟨_, rfl⟩, rfl, ⟨_, rfl⟩⟩

/-- Bytes whose top bit is set, in every width. -/
theorem test_witness_ScalarReadsAreBigEndian :
    (∃ t, readBytes 2 (before [] [0x80, 0x00]) = .ok [0x80, 0x00] t) ∧
    (∃ t, readBytes 4 (before [] [0xFF, 0, 0, 1]) = .ok [0xFF, 0, 0, 1] t) ∧
    (∃ t, readBytes 6 (before [] [0xFF, 0, 0, 0, 0, 1]) = .ok [0xFF, 0, 0, 0, 0, 1] t) ∧
    (∃ t, readBytes 8 (before [] [0x80, 0, 0, 0, 0, 0, 0, 0]) = .ok [0x80, 0, 0, 0, 0, 0, 0, 0] t) ∧
    (∃ e t, readBytes (wideLength .u16) (before [] [0x80]) = .err e t) :=
  ⟨readBytes_before [0x80, 0x00], readBytes_before [0xFF, 0, 0, 1], readBytes_before [0xFF, 0, 0, 0, 0, 1],
   readBytes_before [0x80, 0, 0, 0, 0, 0, 0, 0], _, _, rfl⟩

/-- Bytes that read otherwise from their other end, in every width; and a 24-bit integer of either sign. -/
theorem test_witness_OnlyTheTimestampIsLittleEndian :
    (∀ bs ∈ ([[1, 2, 3, 4, 5, 6, 7, 8], [1, 2, 3, 4, 5, 6], [1, 2, 3, 4], [1, 2]] : List (List Byte)),
      ∃ t, readBytes bs.length (before [] bs) = .ok bs t) ∧
    BitVec.ofInt 24 0x010203 = (0x01 : Byte) ++ (0x02 : Byte) ++ (0x03 : Byte) ∧
    BitVec.ofInt 24 (-2) = (0xFF : Byte) ++ (0xFF : Byte) ++ (0xFE : Byte) :=
  ⟨fun bs _ => readBytes_before bs, by decide, by decide⟩

/-- Exactly as many words as asked for, and one too few. -/
theorem test_witness_StringReadTakesBytesOrEnds :
    (before [] [1, 2]).cur ≤ (before [] [1, 2]).buf.length ∧ (before [] [1, 2]).cur + 2 ≤ (before [] [1, 2]).buf.length ∧
    ¬ (before [] [1, 2]).cur + 3 ≤ (before [] [1, 2]).buf.length := by decide

theorem test_witness_EndOfBufferIsCursorPastLastWord : (issued .endOfBuffer []).ops = .endOfBuffer :: [] := by decide

theorem test_witness_WrittenFrameReadsBackAndChecks :
    Claims.unbounded State.reset ∧ State.reset.cfg.byteCodecOk = true ∧ State.reset.crc = 0xFFFF ∧
    State.reset.cur = State.reset.buf.length := ⟨rfl, rfl, rfl, rfl⟩

/-- Replies of the two functions without payload; and payloads of every function, for function 17 the shortest and the longest
name. -/
theorem test_witness_MatchingRepliesEmptyTheQueue :
    (Claims.unbounded State.reset ∧ State.reset.cfg.byteCodecOk = true ∧ State.reset.cfg.rxDelimiterPolicy = .keep ∧
      State.reset.cfg.preProcess = none ∧ State.reset.cfg.postProcess = none ∧
      Claims.registered State.reset.cfg 107 decoder107 ∧ Claims.registered State.reset.cfg 81 decoder81 ∧
      (∀ r ∈ ([(8, 107), (9, 81)] : List (Byte × Byte)), r.2 = 107 ∨ r.2 = 81) ∧
      (before [(8, 107), (9, 81)] []).cq = [(8, 107), (9, 81)]) ∧
    Claims.defaultDecoders State.reset.cfg ∧ Memory.wf State.reset.cfg.bufWords [0x1210] = true ∧
    Memory.wf (some 1) [0x1210] = true ∧
    (∀ r ∈ ([(107, 0), (81, 0), (72, 1), (65, 2), (18, 5), (67, 9), (119, 16), (110, 96)] : List (Byte × Nat)),
      Claims.payloadOf r.1 (List.replicate r.2 0)) ∧
    (∀ l ∈ ([12, 255] : List Byte), Claims.payloadOf 17 (l :: List.replicate l.toNat 0)) := by
  refine ⟨⟨rfl, rfl, rfl, rfl, rfl, registered_ilc.2.2.2.2.1, registered_ilc.2.2.2.2.2.1, by simp, rfl⟩, ?_, rfl, rfl, ?_, ?_⟩
  · obtain ⟨h18, h65, h17, h72, h107, h81, h67, h119, h110⟩ := registered_ilc
    exact ⟨h17, h18, h65, h72, h107, h67, h81, h110, h119⟩
  · intro r hr
    simp only [List.mem_cons, List.not_mem_nil, or_false] at hr
    rcases hr with rfl | rfl | rfl | rfl | rfl | rfl | rfl | rfl <;> simp [Claims.payloadOf]
  · exact fun l hl => .inr (.inr (.inr (.inr (.inr (.inr (.inr
      ⟨rfl, _, _, rfl, by revert l; decide, List.length_replicate⟩))))))

/-- Data that is all there, and data two bytes short of `data_len`, in a buffer with room and none to spare. -/
theorem test_witness_BroadcastsAreNeverQueued :
    ((250 : Byte) ∈ Config.ilc.broadcastSet ∧ (251 : Byte) ∉ Config.ilc.broadcastSet ∧ (1 : Byte) ∉ Config.ilc.broadcastSet ∧
      Config.ilc.qDepth ≠ some State.reset.cq.length ∧
      ({ Config.ilc with qDepth := some 1 }).qDepth = some ([(8, 18)] : List (Byte × Byte)).length) ∧
    (∃ t, step (issued (.request (.broadcastFunction 250 65 1 1000 [] 0)) []) = .next t) ∧
    (∃ t, step (issued (.request (.broadcastFunction 250 65 1 1000 [5] 3)) []) = .next t) ∧
    Claims.room (bounded 10 []) (3 + 7) := ⟨by decide, ⟨_, rfl⟩, ⟨_, rfl⟩, room_bounded (by decide)⟩

/-- Room and none; a queue with room, a full one, and a full one for a broadcast address; the buffer's bound at each edge; a
named request. -/
theorem test_witness_CallFunctionEmitsTheRequest :
    ([8, 72, 9] : List Byte) = 8 :: 72 :: [Param.u8 9].flatMap Param.bytes ∧
    Claims.room State.reset 7 ∧ Claims.queueRoom State.reset 8 ∧
    ¬ Claims.queueRoom { before [(9, 18)] [] with cfg := { Config.ilc with qDepth := some 1 } } 8 ∧
    Claims.queueRoom { before [(9, 18)] [] with cfg := { Config.ilc with qDepth := some 1 } } 250 ∧
    (∀ n ∈ [1, 3, 4, 5, 6, 7], (bounded n [0x1200]).cfg.bufWords = some n ∧ (bounded n [0x1200]).buf.length ≤ n ∧
      n < (bounded n [0x1200]).buf.length + 7) ∧
    (issued (.request (.resetServer 8)) []).ops = .request (.resetServer 8) :: [] ∧
    Claims.namedRequest Config.ilc (.resetServer 8) = some (8, 107, 1800, []) ∧
    Claims.room (issued (.request (.resetServer 8)) []) 6 :=
  ⟨rfl, room_reset 7, .inr (by decide), by rintro (h | h) <;> revert h <;> decide, .inl (by decide),
   fun n hn => ⟨rfl, by revert n; decide, by revert n; decide⟩, rfl, rfl, room_reset 6⟩

theorem test_witness_AssembledRequestsAreBuiltRequests :
    Claims.unbounded State.reset ∧ State.reset.cfg.qDepth = none ∧ State.reset.buf = [] ∧ State.reset.crc = 0xFFFF :=
  ⟨rfl, rfl, rfl, rfl⟩

/-- The same record, and an altered one. -/
theorem test_witness_FingerprintIsIdempotent :
    let t := (responseMatchCached 8 18 State.reset).2
    t.cache = (responseMatchCached 8 18 State.reset).2.cache ∧ (t.setRecord [1]).cache = t.cache ∧
    ((8, 19) : Byte × Byte) ≠ (8, 18) := by decide

theorem test_witness_BroadcastCounterWrapsAtFifteen :
    ({ issued .nextBroadcastCounter [] with bcast := 15 }).ops = .nextBroadcastCounter :: [] := by decide

theorem test_witness_ModeTimeoutRule :
    ((3 : Byte) = 3 ∨ (none : Option Byte) = some 3) ∧ ((0 : Byte) = 3 ∨ some (3 : Byte) = some 3) ∧
    ¬((4 : Byte) = 3 ∨ some (2 : Byte) = some 3) := by decide

/-- Both widths of the mode field, from a mode that is known and one that is not. -/
theorem test_witness_ChangeModeRequestUsesLastMode :
    (100000 : Micros) = (if (3 : Byte) = 3 ∨ State.reset.modeOf 7 = some 3 then 100000 else 335) ∧
    (335 : Micros) = (if (1 : Byte) = 3 ∨ State.reset.modeOf 7 = some 3 then 100000 else 335) ∧
    State.reset.cfg.modeReqWidth = .bits16 ∧ ({ Config.ilc with modeReqWidth := .bits8 }).modeReqWidth = .bits8 ∧
    Claims.room State.reset (([0, 3] : List Byte).length + 6) ∧ Claims.queueRoom State.reset 7 ∧
    Claims.queueRoom State.reset 250 :=
  ⟨rfl, rfl, rfl, rfl, room_reset _, .inr (by decide), .inl (by decide)⟩

theorem test_witness_RecorderQueueAndSnapshotOperations :
    (issued .recordChanges []).ops = .recordChanges :: [] ∧ (issued .pauseRecordChanges []).ops = .pauseRecordChanges :: [] ∧
    (issued (.checkRecording none) []).ops = .checkRecording none :: [] ∧
    (issued .checkCommandedEmpty []).ops = .checkCommandedEmpty :: [] ∧ (issued .snapshot []).ops = .snapshot :: [] ∧
    (issued (.processResponse [0x1210] 0) []).ops = .processResponse [0x1210] 0 :: [] ∧ Config.ilc.preProcess = none ∧
    Config.ilc.postProcess = none ∧ 2 ≤ ([0x1210, 0x1224] : List Word).length ∧ (bounded 1 []).cfg.bufWords = some 1 := by decide

theorem test_witness_TablesChangeOnlyInDispatch :
    Claims.dispatches (.clear false) = false ∧
    ∃ t, step { issued (.clear false) [] with lastMode := [(8, 2)] } = .next t := ⟨rfl, _, rfl⟩

/-- An entry of function 42 that keeps the default registry well formed. -/
def entry42 : Entry := ⟨42, [.read (.wide .f32) .mode, .setMode .mode], 170, none⟩

/-- An entry that the registry takes, with a step that uses a name bound before it. -/
theorem test_witness_ConfigurationIsFixed :
    Claims.wellFormedRegistry (Config.ilc.registry ++ [entry42]) ∧ Claims.inGrammar entry42.decoder ∧
    State.reset.registrySealed = false ∧ ∃ t, step (issued (.addResponse entry42) []) = .next t := by
  refine ⟨by unfold Claims.wellFormedRegistry; decide, ?_, rfl, _, rfl⟩
  intro before x after v h hx
  rcases before with - | ⟨y, - | ⟨z, before⟩⟩
  · cases h; cases hx
  · cases h; cases hx
    exact ⟨_, List.mem_singleton.mpr rfl, rfl⟩
  · simp [entry42] at h

theorem test_witness_CursorOnlyMovesForward :
    Claims.rewinds (.word .next) = false ∧ (∃ t, step (issued (.word .next) [0x3000]) = .next t) ∧
    Claims.rewinds .frame = false ∧ ∃ t, step (reply [(8, 42)] [0x1210, 0x1254]) = .next t := ⟨rfl, ⟨_, rfl⟩, rfl, _, rfl⟩

theorem test_witness_EveryOperationEndsInOneResult : ∃ t, step (issued .snapshot [0x3000]) = .next t := ⟨_, rfl⟩

theorem reset_inv : Inv State.reset :=
  ⟨by decide, by decide, nofun, nofun, by decide, by decide, by decide⟩

theorem inv_ops {s : State} (h : Inv s) (ops : List HostOp) : Inv { s with ops := ops } :=
  ⟨h.cursor, h.buffer, h.within, h.unicast, h.cacheForm, h.modeForm, h.config⟩

/-- A good state in which an operation is issued, for each contract one that is met and one that is not, at its edge. -/
theorem test_witness_EveryOperationIsTaken :
    (∀ ops, Inv { State.reset with ops := ops }) ∧ Claims.withinContract State.reset .snapshot ∧
    Claims.withinContract State.reset (.processResponse [0x1210] 1) ∧
    ¬ Claims.withinContract State.reset (.processResponse [0x1210] 2) ∧
    Claims.withinContract State.reset (.writeCommandFifo [] 1 0) ∧
    ¬ Claims.withinContract State.reset (.writeCommandFifo [0xC000] 1 0) ∧
    Claims.withinContract State.reset (.arbiter (.advance 0)) ∧ ¬ Claims.withinContract State.reset (.arbiter .batchComplete) := by
  refine ⟨inv_ops reset_inv, trivial, Nat.le_refl 1, by simp [Claims.withinContract], nofun, ?_, ⟨nofun, nofun⟩, fun h => h.1 rfl⟩
  exact fun h => h 0xC000 (by decide) (by unfold Claims.reserved; decide)

/-- A registry with a doubled normal code, one whose error code is a normal code, a decoder that uses a name it does not bind, a
sealed registry, a length one too long, and a reserved word to send. -/
theorem test_witness_RefusalsHaveNoNextState :
    State.reset.registrySealed = false ∧ ¬ Claims.wellFormedRegistry (Config.ilc.registry ++ [⟨17, [], 170, none⟩]) ∧
    ¬ Claims.wellFormedRegistry (Config.ilc.registry ++ [⟨42, [], 17, none⟩]) ∧
    ¬ Claims.inGrammar [.setMode .mode, .read .u8 .mode] ∧
    ({ issued (.addResponse entry42) [] with registrySealed := true }).registrySealed = true ∧
    ([0x1210] : List Word).length < 2 ∧ ∃ w ∈ ([0x20DA, 0x0000] : List Word).take 2, Claims.reserved Config.ilc w := by
  refine ⟨rfl, by unfold Claims.wellFormedRegistry; decide, by unfold Claims.wellFormedRegistry; decide, fun h => ?_, rfl, by decide,
    0x0000, by decide, by unfold Claims.reserved; decide⟩
  obtain ⟨y, hy, -⟩ := h [] _ _ .mode rfl rfl
  cases hy

theorem test_witness_StepKeepsTheInvariant : Inv State.reset ∧ ∃ t, step State.reset = .next t := ⟨reset_inv, _, rfl⟩

/-- An action that ends well, one that ends in an error, two their state does not have; counts of 0 and of one word, an awaited
read of it; a snapshot without a reserved word; a request that is built and one that is not; a chunk that is processed and
one that is not. -/
theorem test_witness_ArbiterFollowsItsTable :
    (∃ t v, step { issued (.arbiter (.advance 0)) [] with arb := .readCount } = .next t ∧ t.result = some (.ok v)) ∧
    (∃ t e, step { issued (.arbiter (.advance 0)) [] with arb := .check, cq := [(8, 18)] } = .next t ∧ t.result = some (.err e)) ∧
    Claims.arbiterTable .idle .batchComplete [0] = none ∧ Claims.arbiterTable .compose (.advance 0) [0] = none ∧
    State.reset.driver.responseFifo.length = 0 ∧ (fpgaSupply [0x1210] State.reset).driver.responseFifo.length = 1 ∧
    (({ commandFifo := [], requests := [], responseFifo := [0x1210], counted := some 1 } : Driver).counted = some 1 ∧
      (1 : Word).toNat ≤ ([0x1210] : List Word).length) ∧
    ¬ Claims.reserved Config.ilc 0x1210 ∧
    (∃ t, runRequest (.resetServer 8) State.reset.begin = .ok () t) ∧
    (∃ e t, runRequest (.resetServer 8) (bounded 1 [0x1200]).begin = .err e t) ∧
    (∃ t, processResponse [] 0 State.reset.begin = .ok () t) ∧
    (∃ e t, processResponse [0x1210, 0x1254] 2 State.reset.begin = .err e t) :=
  ⟨⟨_, _, rfl, rfl⟩, ⟨_, _, rfl, rfl⟩, rfl, rfl, rfl, rfl, ⟨rfl, by decide⟩, by unfold Claims.reserved; decide,
   ⟨_, rfl⟩, ⟨_, _, rfl⟩, ⟨_, rfl⟩, ⟨_, _, rfl⟩⟩

/-- Words within the list and past it, none of them reserved, at the edges of the reserved nibbles in both dialects; a request in
the ILC dialect and one in the PLAIN dialect with a wait command of 0x0; no response word, one, and as many as a u16 counts. -/
theorem test_witness_DriverCallsMoveWordsOnly :
    (∀ n, ∀ w ∈ ([0x20DA, 0x1000, 0xBFFF] : List Word).take n, ¬ Claims.reserved Config.ilc w) ∧
    (∀ n, ∀ w ∈ ([0x0041, 0x0100, 0x0FFF, 0xBFFF] : List Word).take n, ¬ Claims.reserved plain w) ∧
    Claims.reserved Config.ilc 0x0FFF ∧ Claims.reserved Config.ilc 0xC000 ∧ Claims.reserved plain 0xC000 ∧
    Claims.ilcFields Config.ilc ∧ Claims.ilcFields { plain with waitShortCmd := 0x0 } ∧
    Claims.requestWords { plain with waitShortCmd := 0x0 } 0xFFFF [8, 18] 1800 = [0x0008, 0x0012, 0x0086, 0x007D, 0x20DA, 0x0708] ∧
    (issued (.writeRequestFifo [1]) []).ops = .writeRequestFifo [1] :: [] ∧ State.reset.driver.responseFifo = [] ∧
    State.reset.driver.counted = none ∧ ([] : List Word).length < 65536 ∧
    (List.replicate 65535 (0x1210 : Word)).length < 65536 := by
  refine ⟨fun n w hw => ?_, fun n w hw => ?_, by unfold Claims.reserved; decide, by unfold Claims.reserved; decide,
    by unfold Claims.reserved; decide, fun _ => ⟨rfl, rfl, rfl⟩, nofun, by decide +kernel, rfl, rfl, rfl, by decide,
    by rw [List.length_replicate]; decide⟩
  · have := List.mem_of_mem_take hw
    simp only [List.mem_cons, List.not_mem_nil, or_false] at this
    rcases this with rfl | rfl | rfl <;> unfold Claims.reserved <;> decide
  · have := List.mem_of_mem_take hw
    simp only [List.mem_cons, List.not_mem_nil, or_false] at this
    rcases this with rfl | rfl | rfl | rfl <;> unfold Claims.reserved <;> decide

end Sys2Proof.Tests
end

/-! # The ILC dialect

The byte codec of the ILC dialect (R31) for every configuration of that dialect, the wait words a configuration writes, and O4. -/

namespace Sys2Proof

section
variable {c : Config}

theorem Config.encByte_of_ilc (h : c.dialect = .ilc) (b : Byte) : c.encByte b = c.txMask ||| (b.setWidth 16 <<< 1) := by
  simp [Config.encByte, h]

theorem Config.decByte_of_ilc (h : c.dialect = .ilc) (w : Word) : c.decByte w = w.extractLsb' 1 8 := by
  simp [Config.decByte, h]

/-- The data byte stays below bit 9, so the command nibble of its word is that of `TX_MASK`. -/
theorem Config.nibble_encByte_of_ilc (h : c.dialect = .ilc) (b : Byte) : nibble (c.encByte b) = nibble c.txMask := by
  rw [Config.encByte_of_ilc h]
  unfold nibble
  ext i hi
  have hbyte : (b.setWidth 16 <<< 1).getLsbD (12 + i) = false := by
    have hpast : b.getLsbD (11 + i) = false := BitVec.getLsbD_of_ge _ _ (by omega)
    simp [hpast]
  simp only [BitVec.getElem_extractLsb', BitVec.getLsbD_or, hbyte, Bool.or_false]

end

end Sys2Proof

namespace Sys2Proof.Machine

open Sys2Proof

/-! ## The wait words -/

theorem writeWaitForRx_short {us : Micros} (h : us.toNat ≤ 0xFFF) (s : State) :
    writeWaitForRx us s = emit (mkWord s.cfg.waitShortCmd (BitVec.ofNat 12 us.toNat)) s := by
  rw [writeWaitForRx, timeWord_short h]

theorem writeWaitForRx_long {us : Micros} (h : 0xFFF < us.toNat) (s : State) :
    writeWaitForRx us s =
      emit (mkWord s.cfg.waitLongCmd (BitVec.ofNat 12 (longMs s.cfg.longRounding us.toNat))) s := by
  rw [writeWaitForRx, timeWord_long h]

/-! ## O4 -/

/-- Settles O4: the byte clauses are the ILC codec at `Config.ilc`, whose mask leaves the byte's bits free and has the nibble 0x1;
each write emits the sentinel or the wait command that `Config.ilc` gives it. -/
theorem ilcDialectEncoding : Obligations.IlcDialectEncoding := by
  have hilc : Config.ilc.dialect = .ilc := rfl
  have hcodec : Config.ilc.byteCodecOk = true := by decide
  have hmask : nibble Config.ilc.txMask = 0x1 := by decide
  refine ⟨Config.encByte_of_ilc hilc, Config.decByte_of_ilc hilc, fun b => ⟨?_, ?_⟩, fun s hs => ⟨?_, ?_, ?_, ?_⟩⟩
  · exact Config.decByte_encByte hcodec b
  · rw [Config.nibble_encByte_of_ilc hilc, hmask]
  · rw [writeEndOfFrame, hs]; rfl
  · rw [writeRxEndFrame, hs]
  · intro us hshort
    rw [writeWaitForRx_short hshort, hs]; rfl
  · intro us hlong
    rw [writeWaitForRx_long hlong, hs]; rfl

end Sys2Proof.Machine

/-! # The CRC in the frame

The two bytes of the CRC, low byte first: written where there is room for their words, and put together when read; O31. -/

namespace Sys2Proof.Machine

open Sys2Proof

theorem room_of_unbounded {s : State} (h : Claims.unbounded s) (n : Nat) : Claims.room s n :=
  fun m hm => by cases h.symm.trans hm

theorem writeCrc_of_room {s : State} (h : Claims.room s 2) :
    writeCrc s = .ok () { s with
      buf := s.buf ++ [s.cfg.encByte (crcLow s.crc), s.cfg.encByte (crcHigh s.crc)], crc := 0xFFFF } := by
  have hlow : s.cfg.bufWords ≠ some s.buf.length := fun hm => by have := h _ hm; omega
  have hhigh (w : Word) : (s.setBuf (s.buf ++ [w])).cfg.bufWords ≠ some (s.setBuf (s.buf ++ [w])).buf.length := by
    intro hm
    have := h _ hm
    simp at this
  rw [writeCrc, emit_of_room hlow, Ran.andThen_ok, emit_of_room (hhigh _), Ran.andThen_ok]
  simp [State.setBuf, State.crcReset, State.setCrc, State.crcValue]

/-- R50's `lo | (hi << 8)`. -/
theorem crcOfBytes_eq_or (lo hi : Byte) : crcOfBytes lo hi = lo.setWidth 16 ||| (hi.setWidth 16 <<< 8) := by
  rw [crcOfBytes, BitVec.append_def, BitVec.shiftLeftZeroExtend_eq, BitVec.setWidth'_eq, BitVec.or_comm]

/-! ## O31 -/

/-- Settles O31: an unbounded buffer has room for the two words of the CRC, and `check_crc` compares the accumulator with the two
bytes ahead, which R50 puts together low byte first. -/
theorem crcIsLittleEndianInTheFrame : Obligations.CrcIsLittleEndianInTheFrame := by
  refine ⟨fun s hs => writeCrc_of_room (room_of_unbounded hs 2), fun lo hi s hahead => ?_⟩
  rw [← crcOfBytes_eq_or]
  exact checkCrc_of_ahead hahead

end Sys2Proof.Machine

/-! # The CRC step on numbers

R106 gives the iteration on the accumulator's number, the model on its bits; O26. -/

namespace Sys2Proof.Machine

open Sys2Proof

theorem toNat_crcShift (c : Word) : (crcShift c).toNat = Claims.crcIteration c.toNat := by
  have hlsb : c.getLsbD 0 = true ↔ c.toNat % 2 = 1 := by simp [BitVec.getLsbD]
  have hhalf : (c >>> 1).toNat = c.toNat / 2 := by simp [Nat.shiftRight_one]
  unfold crcShift Claims.crcIteration
  split <;> rename_i hbit
  · rw [if_pos (hlsb.mp hbit), BitVec.toNat_xor, hhalf]
    rfl
  · rw [if_neg (mt hlsb.mpr hbit), hhalf]

theorem toNat_crcShifts (n : Nat) (c : Word) : (crcShifts n c).toNat = Claims.crcIteration^[n] c.toNat := by
  induction n generalizing c with
  | zero => rfl
  | succ n ih => rw [crcShifts, ih, toNat_crcShift, Function.iterate_succ_apply]

theorem toNat_crcByte (c : Word) (b : Byte) :
    (crcByte c b).toNat = Claims.crcIteration^[8] (c.toNat ^^^ b.toNat) := by
  rw [crcByte, toNat_crcShifts, BitVec.toNat_xor, BitVec.toNat_setWidth_of_le (by decide)]

/-! ## O26 -/

/-- Settles O26: each shift is R106's iteration on the accumulator's number, so eight of them are its eighth iterate, by induction on
their number; `crcAdd` is an update of `crc`. -/
theorem crcAddIsEightIterations : Obligations.CrcAddIsEightIterations :=
  fun c b _ => ⟨toNat_crcByte c b, rfl, by decide, by decide⟩

end Sys2Proof.Machine

/-! # The bytes of an integer

`bytes_be` of a bit pattern is the list of its byte fields, most significant first; O28. -/

namespace Sys2Proof

/-- A field of a field, both counted from their own low end. -/
theorem extractLsb'_extractLsb' {n start len off width : Nat} (x : BitVec n) (h : start + len ≤ width) :
    (x.extractLsb' off width).extractLsb' start len = x.extractLsb' (off + start) len := by
  ext i hi
  have hin : start + i < width := by omega
  simp [hin, Nat.add_assoc]

end Sys2Proof

namespace Sys2Proof.Machine

open Sys2Proof

theorem bytesBE_toNat_succ {n : Nat} (v : BitVec n) (k : Nat) :
    bytesBE v.toNat (k + 1) = v.extractLsb' (8 * k) 8 :: bytesBE v.toNat k := rfl

theorem bytesBE_one (v : BitVec 8) : bytesBE v.toNat 1 = [v] := by
  rw [bytesBE_toNat_succ, BitVec.extractLsb'_eq_self, bytesBE_zero]

theorem bytesBE_two (v : BitVec 16) : bytesBE v.toNat 2 = [v.extractLsb' 8 8, v.extractLsb' 0 8] := by
  simp only [bytesBE_toNat_succ, bytesBE_zero]

theorem bytesBE_four (v : BitVec 32) : bytesBE v.toNat 4 = Claims.be32 v := by
  simp only [bytesBE_toNat_succ, bytesBE_zero, Claims.be32]

theorem bytesBE_eight (v : BitVec 64) :
    bytesBE v.toNat 8 = Claims.be32 (v.extractLsb' 32 32) ++ Claims.be32 (v.extractLsb' 0 32) := by
  have hhigh {k : Nat} (h : k + 8 ≤ 32) : (v.extractLsb' 32 32).extractLsb' k 8 = v.extractLsb' (32 + k) 8 :=
    extractLsb'_extractLsb' v h
  have hlow {k : Nat} (h : k + 8 ≤ 32) : (v.extractLsb' 0 32).extractLsb' k 8 = v.extractLsb' k 8 :=
    BitVec.extractLsb'_extractLsb'_of_le h
  simp (disch := decide) only [bytesBE_toNat_succ, bytesBE_zero, Claims.be32, hhigh, hlow, List.cons_append, List.nil_append]

theorem writeBytes_singleton (b : Byte) (s : State) : writeBytes [b] s = writeByte b s := by
  cases h : writeByte b s <;> simp [writeBytes, h]

/-! ## O28 -/

/-- Settles O28: `write` sends `bytes_be` of the pattern, and each width's `bytesBE` lemma names its byte fields; the signed value of
a width has the bytes of the unsigned one, and `WriteByte` takes the bytes in order. -/
theorem integerWritesAreBigEndian : Obligations.IntegerWritesAreBigEndian := by
  refine fun s => ⟨fun v => ?_, fun v => ⟨?_, rfl⟩, fun v => ⟨?_, rfl⟩, fun v => ⟨?_, rfl⟩, fun b bs => rfl⟩
  · have hbyte : writeBytes (bytesBE v.toNat 1) s = writeByte v s := by rw [bytesBE_one, writeBytes_singleton]
    exact ⟨hbyte, hbyte⟩
  · rw [← bytesBE_two]; rfl
  · rw [← bytesBE_four]; rfl
  · rw [← bytesBE_eight]; rfl

end Sys2Proof.Machine

/-! # The end of the buffer

`end_of_buffer()` (R140) as one host operation; O38. -/

namespace Sys2Proof.Machine

open Sys2Proof

/-- R140: the cursor against the length of the buffer, and no write. -/
theorem runOp_endOfBuffer (s : State) :
    runOp .endOfBuffer s = .next (s.complete (.ok (.bool (decide (s.buf.length ≤ s.cur))))) := rfl

/-- Completing an operation begun in `s` that left the state as it was writes the result, the events and the host's list only. -/
theorem complete_begin {s : State} {o : HostOp} {rest : List HostOp} (h : s.ops = o :: rest) (r : Result) :
    s.begin.complete r = { s with result := some r, events := [], ops := rest } := by
  simp [State.complete, State.begin, h]

/-! ## O38 -/

/-- Settles O38: the step runs `end_of_buffer` on the begun state, whose cursor and buffer are those of `s`, and completes it. -/
theorem endOfBufferIsCursorPastLastWord : Obligations.EndOfBufferIsCursorPastLastWord := by
  intro s rest hops
  rw [step_cons hops, runOp_endOfBuffer, complete_begin hops, State.begin_buf, State.begin_cur]

end Sys2Proof.Machine

/-! # The broadcast counter

`next_broadcast_counter()` (R194) as one host operation and as a function iterated; O46. -/

namespace Sys2Proof.Machine

open Sys2Proof

/-- R194: the value returned is the counter after the increment. -/
theorem runOp_nextBroadcastCounter (s : State) :
    runOp .nextBroadcastCounter s =
      .next ((nextBroadcastCounter s).complete (.ok (.uint (nextBroadcastCounter s).bcast.toNat))) := rfl

theorem nextBroadcastCounter_begin (s : State) :
    nextBroadcastCounter s.begin = (nextBroadcastCounter s).begin := rfl

/-- The nibble wraps at 15. -/
theorem nextBroadcastCounter_bcast_toNat (s : State) :
    (nextBroadcastCounter s).bcast.toNat = (s.bcast.toNat + 1) % 16 := BitVec.toNat_add s.bcast 1

/-- The increment with the new counter written as a number, and every other field as it was. -/
theorem nextBroadcastCounter_eq_ofNat (s : State) :
    nextBroadcastCounter s = { s with bcast := BitVec.ofNat 4 ((s.bcast.toNat + 1) % 16) } := by
  rw [← nextBroadcastCounter_bcast_toNat, BitVec.ofNat_toNat, BitVec.setWidth_eq]; rfl

/-- `n` calls add `n` to the counter, modulo 16, and touch nothing else. -/
theorem nextBroadcastCounter_iterate (n : Nat) (s : State) :
    nextBroadcastCounter^[n] s = s.setBcast (s.bcast + BitVec.ofNat 4 n) := by
  induction n generalizing s with
  | zero => simp [State.setBcast]
  | succ n ih =>
    have hadd : s.bcast + 1 + BitVec.ofNat 4 n = s.bcast + BitVec.ofNat 4 (n + 1) := by
      rw [BitVec.add_assoc, Nat.add_comm, BitVec.ofNat_add]; rfl
    rw [Function.iterate_succ_apply, ih, nextBroadcastCounter_bcast, hadd]; rfl

/-! ## O46 -/

/-- Settles O46: the step increments the begun state's counter and completes with its new value; sixteen calls add `16 = 0` to it. -/
theorem broadcastCounterWrapsAtFifteen : Obligations.BroadcastCounterWrapsAtFifteen := by
  refine ⟨fun s rest hops => ?_, fun s => ?_⟩
  · have hnext : (nextBroadcastCounter s).ops = .nextBroadcastCounter :: rest := hops
    rw [step_cons hops, runOp_nextBroadcastCounter, nextBroadcastCounter_begin, complete_begin hnext, State.begin_bcast,
      nextBroadcastCounter_bcast_toNat, nextBroadcastCounter_eq_ofNat]
  · have hwrap : s.bcast + BitVec.ofNat 4 16 = s.bcast := BitVec.add_zero s.bcast
    rw [nextBroadcastCounter_iterate, hwrap]; rfl

end Sys2Proof.Machine

/-! # Decoder and encoder

The decoder on the words of an instruction, and the words of what it decodes; O1, O2, O3. -/

namespace Sys2Proof

theorem not_isSentinel_iff {c : Config} {w : Word} : c.isSentinel w = false ↔ w ≠ c.txFrameend ∧ w ≠ c.rxEndframe := by
  simp [Config.isSentinel]

/-- Past the whole-word tests, a command nibble other than 0 decides the row. -/
theorem decodeWord_of_command {c : Config} {n : Nibble} {p : Payload} {i : Instr} (h : (!c.isSentinel (mkWord n p)) = true)
    (hn : n ≠ 0) (hi : decodeNibble (mkWord n p) = i) : decodeWord c (mkWord n p) = i := by
  rw [decodeWord_mkWord (by simpa using h) (.inl hn), hi]

theorem setWidth_highByte (b : Byte) : ((b.setWidth 16 : Word).extractLsb' 8 8 : BitVec 8) = 0 := by
  revert b; decide

theorem setWidth_lowByte_eq (b : Byte) : ((b.setWidth 16 : Word).extractLsb' 0 8 : BitVec 8) = b := by
  revert b; decide

theorem decodeNibble_write (hi : BitVec 3) (b : Byte) (lo : BitVec 1) :
    decodeNibble (mkWord 0x1 (mkWritePayload hi b lo)) = .write hi b lo := by
  obtain ⟨h1, h2, h3⟩ := writePayload_fields hi b lo
  rw [decodeNibble, nibble_mkWord, h1, h2, h3]
  rfl

/-- The word of a well-formed instruction word decodes to it. -/
theorem decodeWord_encode {c : Config} {i : Instr} {w : Word} (hl : i.level = .word) (hw : wellFormed c i = true)
    (he : encode c i = [w]) : decodeWord c w = i := by
  cases i <;> cases hl <;> simp only [encode, List.cons.injEq, and_true] at he <;> subst he
  case write hi b lo => exact decodeWord_of_command hw (by decide) (decodeNibble_write hi b lo)
  case frameend => simp [decodeWord]
  case rxend =>
    have hne : c.rxEndframe ≠ c.txFrameend := by simpa [wellFormed] using hw
    simp [decodeWord, hne]
  case reserved0 p =>
    simp only [wellFormed, Bool.and_eq_true, Bool.not_eq_true'] at hw
    rw [decodeWord_mkWord hw.1 (.inr (by simpa using hw.2))]
    simp [decodeNibble]
  case byte b =>
    simp only [wellFormed, Bool.and_eq_true, Bool.not_eq_true', decide_eq_true_eq] at hw
    obtain ⟨htx, hrx⟩ := not_isSentinel_iff.mp hw.2
    rw [decodeWord, if_neg htx, if_neg hrx, if_pos ⟨hw.1, setWidth_highByte b⟩, setWidth_lowByte_eq]
  all_goals exact decodeWord_of_command hw (by decide) (by simp [decodeNibble])

/-- A header of a row of the table decodes to the row's instruction when the codec carries a byte. -/
theorem decode_encHeader {c : Config} {a f : Byte} {i : Instr} (hc : c.byteCodecOk = true) (hi : decodeFrame a f = .ok i)
    (rest : List Word) : decode c .frame (c.encHeader a f ++ rest) = .ok (i, rest) := by
  simp [Config.encHeader, decode, Config.decByte_encByte hc, hi]

/-- An instruction word has one word. -/
theorem encode_of_level_word {i : Instr} (c : Config) (h : i.level = .word) : ∃ w, encode c i = [w] := by
  cases i <;> cases h <;> exact ⟨_, rfl⟩

/-! ## O2 -/

/-- Settles O2: a level 1 instruction's word passes the whole-word tests and falls to its own row; a level 2 instruction's header
carries its two bytes through the codec. -/
theorem decodeOfEncodeIsTheInstruction : Obligations.DecodeOfEncodeIsTheInstruction := by
  intro c i rest hw
  cases hl : i.level with
  | word =>
    obtain ⟨w, he⟩ := encode_of_level_word c hl
    rw [he]
    simp [decode, decodeWord_encode hl hw he]
  | frame => cases i <;> cases hl <;> exact decode_encHeader hw rfl rest

/-! ## O3 -/

/-- What the decoder answers for a word is well formed: the tests it failed are the ones well-formedness asks for. -/
theorem wellFormed_decodeNibble {c : Config} {w : Word} (hs : c.isSentinel w = false)
    (hp : ¬ (c.dialect = .plain ∧ (w.extractLsb' 8 8 : BitVec 8) = 0)) : wellFormed c (decodeNibble w) = true := by
  have hword {n : Nibble} (hn : (nibble w).toNat = n.toNat) : mkWord n (payload w) = w :=
    eq_mkWord_of_nibble (BitVec.eq_of_toNat_eq hn)
  have key {n : Nibble} (hn : (nibble w).toNat = n.toNat) : (!c.isSentinel (mkWord n (payload w))) = true := by
    rw [hword hn, hs]; rfl
  have hlt := (nibble w).isLt
  unfold decodeNibble
  split <;> rename_i hn
  · have hz : ¬ (c.dialect = .plain ∧ ((payload w).extractLsb' 8 4 : BitVec 4) = 0) := by
      rw [← highByte_mkWord_zero, hword (n := 0) hn]; exact hp
    simp only [wellFormed, Bool.and_eq_true]
    exact ⟨key (n := 0) hn, by simpa [imp_iff_not_or] using hz⟩
  · show (!c.isSentinel (mkWord 1 (mkWritePayload _ _ _))) = true
    rw [mkWritePayload_of_fields]; exact key (n := 1) hn
  · exact key (n := 2) hn
  · exact key (n := 3) hn
  · exact key (n := 4) hn
  · exact key (n := 5) hn
  · exact key (n := 6) hn
  · exact key (n := 7) hn
  · exact key (n := 8) hn
  · exact key (n := 9) hn
  · exact key (n := 10) hn
  · exact key (n := 11) hn
  · exact key (n := 12) hn
  · exact key (n := 13) hn
  · exact key (n := 14) hn
  · refine key (n := 15) ?_
    rw [show (15 : Nibble).toNat = 15 from rfl]
    simp only [imp_false] at *
    omega

theorem wellFormed_decodeWord (c : Config) (w : Word) : wellFormed c (decodeWord c w) = true := by
  unfold decodeWord
  split
  case isTrue => rfl
  case isFalse htx =>
    split
    case isTrue hrx => subst hrx; simpa [wellFormed] using htx
    case isFalse hrx =>
      have hs : c.isSentinel w = false := not_isSentinel_iff.mpr ⟨htx, hrx⟩
      split
      case isTrue hp => simp [wellFormed, hp.1, setWidth_lowByte hp.2, hs]
      case isFalse hp => exact wellFormed_decodeNibble hs hp

/-- A row of the table is a frame instruction whose header is the address and the function byte. -/
theorem decodeFrame_ok {a f : Byte} {i : Instr} (h : decodeFrame a f = .ok i) (c : Config) :
    i.level = .frame ∧ encode c i = c.encHeader a f := by
  have hf : BitVec.ofNat 8 f.toNat = f := by simp
  unfold decodeFrame at h
  split at h
  case h_19 => cases h
  all_goals
    rename_i hrow
    rw [hrow] at hf
    cases h
    subst hf
    exact ⟨rfl, rfl⟩

theorem decodeFrame_error {a f : Byte} {e : DecodeError} (h : decodeFrame a f = .error e) : e = .notInTable f := by
  unfold decodeFrame at h
  split at h <;> cases h
  rfl

theorem decodeFrame_row {f : Byte} (a : Byte)
    (h : f ∈ ([17, 18, 65, 72, 107, 67, 81, 110, 119, 145, 146, 193, 200, 235, 195, 209, 238, 247] : List Byte)) :
    ∃ i, decodeFrame a f = .ok i := by
  simp only [List.mem_cons, List.not_mem_nil, or_false] at h
  rcases h with rfl | rfl | rfl | rfl | rfl | rfl | rfl | rfl | rfl | rfl | rfl | rfl | rfl | rfl | rfl | rfl | rfl | rfl <;>
    exact ⟨_, rfl⟩

/-- Settles O3: the word's instruction has the word for its encoding and meets the tests its row is tried after; a function byte is
a row of the table or is the one the error names. -/
theorem encodeOfDecodeIsTheWord : Obligations.EncodeOfDecodeIsTheWord := by
  refine ⟨fun c w => ⟨Machine.level_decodeWord c w, wellFormed_decodeWord c w, encode_decodeWord c w⟩,
    fun c a f => ⟨?_, ?_⟩⟩
  · exact fun i hi => decodeFrame_ok hi c
  · refine fun e he => ⟨decodeFrame_error he, fun hrow => ?_⟩
    obtain ⟨i, hi⟩ := decodeFrame_row a hrow
    cases hi.symm.trans he

/-! ## O1 -/

/-- Settles O1: the decoder evaluated on each word and each function byte. -/
theorem tableWordsDecodeToTheirRows : Obligations.TableWordsDecodeToTheirRows := by
  unfold Obligations.TableWordsDecodeToTheirRows
  decide

end Sys2Proof

/-! # Whole-machine rules

What an operation can do, sorted into kinds of effect on the block; the invariant, the tables, the configuration, the cursor and
the result of every step; O34, O50, O51, O52, O53, O56, O57. -/

namespace Sys2Proof.Machine

open Sys2Proof Sys2Proof.Safety

/-- The kinds of effect an operation has, the arbiter's own state apart. -/
inductive BlockEffect (o : HostOp) (s : State) : State → Prop
  | read {v : State} (h : ReadOn s v) : BlockEffect o s v
  | built {v : State} (h : Built s v) : BlockEffect o s v
  | drove {v : State} (h : Drove s v) : BlockEffect o s v
  | counted : BlockEffect o s (nextBroadcastCounter s)
  | reset (hr : Claims.rewinds o = true) : BlockEffect o s (resetOp s)
  | cleared (hr : Claims.rewinds o = true) (b : Bool) (d : Driver) : BlockEffect o s (clearOp b (s.setDriver d))
  | framed {v : State} (ho : o = .frame) (h : Dispatched s v) : BlockEffect o s v
  | processed {v : State} (hd : Claims.dispatches o = true) (hr : Claims.rewinds o = true) (h : Processed s v) :
      BlockEffect o s v
  | registered (e : Entry) (ho : o = .addResponse e) (hopen : s.registrySealed = false)
      (hwf : registryWf (s.cfg.registry ++ [e]) = true) (hnames : decoderNamesOk [] e.decoder = true) :
      BlockEffect o s (s.setCfg { s.cfg with registry := s.cfg.registry ++ [e] })

/-- Every operation has an effect of one kind and may set the arbiter's state. -/
theorem OpEffect.block {o : HostOp} {s u : State} (h : OpEffect o s u) : ∃ v x, u = v.setArb x ∧ BlockEffect o s v := by
  have same : BlockEffect o s u → ∃ v x, u = v.setArb x ∧ BlockEffect o s v := fun k => ⟨u, u.arb, rfl, k⟩
  cases o with
  | word _ | readWide _ | readString _ | checkCrc | recordChanges | pauseRecordChanges => exact same (.read h)
  | decodeWord _ | endOfBuffer | checkCommandedEmpty | checkRecording _ | snapshot =>
    cases h; exact same (.read (ReadOn.refl s))
  | frame => exact same (.framed rfl h)
  | write _ | writeCrc | writeDelay _ | writeWaitForRx _ | writeEndOfFrame | writeRxEndFrame =>
    exact same (.built (Wrote.built h))
  | addResponse e =>
    obtain ⟨hopen, hwf, hnames, rfl⟩ := h
    exact same (.registered e rfl hopen hwf hnames)
  | processResponse _ _ => exact same (.processed rfl rfl h)
  | pushCommanded _ _ | request _ => exact same (.built h)
  | nextBroadcastCounter => cases h; exact same .counted
  | reset => cases h; exact same (.reset rfl)
  | clear b => cases h; exact same (.cleared rfl b s.driver)
  | writeCommandFifo _ _ _ | writeRequestFifo _ | readU16ResponseFifo _ _ | fpgaTake _ | fpgaSupply _ => exact same (.drove h)
  | arbiter a =>
    obtain ⟨v, x, rfl, ⟨b, d, rfl⟩ | h | h | ⟨⟨m, rfl⟩, h⟩⟩ := h
    · exact ⟨_, x, rfl, .cleared rfl b d⟩
    · exact ⟨_, x, rfl, .drove h⟩
    · exact ⟨_, x, rfl, .built h⟩
    · exact ⟨_, x, rfl, .processed rfl rfl h⟩

/-- A step with an operation issued has an effect of one kind on the begun state, and completes it. -/
theorem step_block {s t : State} {o : HostOp} {rest : List HostOp} (h : s.ops = o :: rest) (ht : step s = .next t) :
    ∃ r v x, t = (v.setArb x).complete r ∧ BlockEffect o s.begin v := by
  obtain ⟨r, u, rfl, he⟩ := step_effect h ht
  obtain ⟨v, x, rfl, hv⟩ := he.block
  exact ⟨r, v, x, rfl, hv⟩

/-! ## The fields an effect keeps -/

theorem ReadOn.ops {s t : State} (h : ReadOn s t) : t.ops = s.ops := h.dispatched.ops
theorem ReadOn.cfg {s t : State} (h : ReadOn s t) : t.cfg = s.cfg := h.dispatched.cfg
theorem ReadOn.tables {s t : State} (h : ReadOn s t) : t.cache = s.cache ∧ t.lastMode = s.lastMode := by
  obtain ⟨⟨_, _, _, _, rfl⟩, -⟩ := h; exact ⟨rfl, rfl⟩
theorem ReadOn.forward {s t : State} (h : ReadOn s t) : s.cur ≤ t.cur := by
  obtain ⟨⟨k, _, _, _, rfl⟩, -⟩ := h; exact Nat.le_add_right _ k

/-- A request builder appends to the buffer and the queue and leaves the rest of the block alone. -/
structure Appended (s t : State) : Prop where
  buf : s.buf <+: t.buf
  cq : s.cq <+: t.cq
  cfg : t.cfg = s.cfg
  cur : t.cur = s.cur
  recording : t.recording = s.recording
  record : t.record = s.record
  cache : t.cache = s.cache
  lastMode : t.lastMode = s.lastMode
  bcast : t.bcast = s.bcast
  ops : t.ops = s.ops

theorem Built.appended {s t : State} (h : Built s t) : Appended s t := by
  obtain ⟨⟨ws, c, q, fr, rfl, hq⟩, -⟩ := h
  refine ⟨List.prefix_append _ ws, ?_, rfl, rfl, rfl, rfl, rfl, rfl, rfl, rfl⟩
  obtain rfl | ⟨a, f, rfl, -⟩ := hq
  · exact List.prefix_refl _
  · exact List.prefix_append _ _

theorem Processed.cfg {s t : State} (h : Processed s t) : t.cfg = s.cfg := by
  obtain ⟨_, rfl⟩ | ⟨_, _, -, h⟩ := h
  · rfl
  · exact h.cfg
theorem Processed.ops {s t : State} (h : Processed s t) : t.ops = s.ops := by
  obtain ⟨_, rfl⟩ | ⟨_, _, -, h⟩ := h
  · rfl
  · exact h.ops

theorem BlockEffect.ops {o : HostOp} {s v : State} (h : BlockEffect o s v) : v.ops = s.ops := by
  cases h with
  | read h => exact h.ops
  | built h => exact h.appended.ops
  | drove h => obtain ⟨_, _, rfl⟩ := h; rfl
  | cleared _ b d => cases b <;> rfl
  | framed _ h => exact h.ops
  | processed _ _ h => exact h.ops
  | counted | reset _ | registered _ _ _ _ _ => rfl

theorem BlockEffect.cfg {o : HostOp} {s v : State} (h : BlockEffect o s v) :
    v.cfg = s.cfg ∨ ∃ e, o = .addResponse e ∧ s.registrySealed = false ∧ registryWf (s.cfg.registry ++ [e]) = true ∧
      decoderNamesOk [] e.decoder = true ∧ v.cfg = { s.cfg with registry := s.cfg.registry ++ [e] } := by
  cases h with
  | read h => exact .inl h.cfg
  | built h => exact .inl h.appended.cfg
  | drove h => obtain ⟨_, _, rfl⟩ := h; exact .inl rfl
  | cleared _ b d => cases b <;> exact .inl rfl
  | framed _ h => exact .inl h.cfg
  | processed _ _ h => exact .inl h.cfg
  | counted | reset _ => exact .inl rfl
  | registered e ho hopen hwf hnames => exact .inr ⟨e, ho, hopen, hwf, hnames, rfl⟩

theorem BlockEffect.tables {o : HostOp} {s v : State} (h : BlockEffect o s v) (ho : Claims.dispatches o = false) :
    v.cache = s.cache ∧ v.lastMode = s.lastMode := by
  cases h with
  | read h => exact h.tables
  | built h => exact ⟨h.appended.cache, h.appended.lastMode⟩
  | drove h => obtain ⟨_, _, rfl⟩ := h; exact ⟨rfl, rfl⟩
  | cleared _ b d => cases b <;> exact ⟨rfl, rfl⟩
  | framed hf _ => subst hf; cases ho
  | processed hd _ _ => cases hd.symm.trans ho
  | counted | reset _ | registered _ _ _ _ _ => exact ⟨rfl, rfl⟩

/-! ## O53, O50, O34 -/

/-- Settles O53: completing an operation writes its result and takes it off the list, which no effect touches. -/
theorem everyOperationEndsInOneResult : Obligations.EveryOperationEndsInOneResult := by
  intro s t o rest hops ht
  obtain ⟨r, v, x, rfl, hv⟩ := step_block hops ht
  refine ⟨⟨r, rfl⟩, ?_⟩
  show v.ops.tail = rest
  rw [hv.ops, State.begin_ops, hops, List.tail_cons]

/-- Settles O50: of the kinds of effect only a frame and a processed chunk reach the tables, and those are dispatch. -/
theorem tablesChangeOnlyInDispatch : Obligations.TablesChangeOnlyInDispatch := by
  intro s t o rest hops ho ht
  obtain ⟨r, v, x, rfl, hv⟩ := step_block hops ht
  exact hv.tables ho

/-- The effect of an operation of the write path is a request builder's. -/
theorem OpEffect.built_of_writes {o : HostOp} {s u : State} (ho : Claims.writes o = true) (h : OpEffect o s u) : Built s u := by
  cases o with
  | write _ | writeCrc | writeDelay _ | writeWaitForRx _ | writeEndOfFrame | writeRxEndFrame => exact Wrote.built h
  | request _ => exact h
  | _ => cases ho

/-- Settles O34: the operations that write and the request builders append to the buffer and the queue, so the words there before
stay at their indexes. -/
theorem writesOnlyAppend : Obligations.WritesOnlyAppend := by
  intro s t o rest hops ho ht
  obtain ⟨r, u, rfl, hu⟩ := step_effect hops ht
  have h := (hu.built_of_writes ho).appended
  refine ⟨h.buf, fun j hj => ?_, h.cur, h.cfg, h.recording, h.record, h.cache, h.lastMode, h.bcast, h.cq⟩
  obtain ⟨ws, hws⟩ := h.buf
  show u.buf[j]? = s.buf[j]?
  rw [← hws]
  exact List.getElem?_append_left hj

/-! ## O56, O57: the invariant -/

theorem ReadOn.inv {s t : State} (h : ReadOn s t) (hi : Inv s) : Inv t := by
  obtain ⟨⟨k, c, b, r, rfl⟩, hw⟩ := h
  exact { hi with cursor := hw hi.cursor }

/-- Room in the queue and a unicast address keep the queue's two rules. -/
theorem Built.inv {s t : State} (h : Built s t) (hi : Inv s) : Inv t := by
  obtain ⟨⟨ws, c, q, fr, rfl, hq⟩, hw⟩ := h
  have hcur : s.cur ≤ (s.buf ++ ws).length := by have := hi.cursor; simp; omega
  have hqueue : queueWithin { s with cq := q } ∧ queueUnicast { s with cq := q } := by
    obtain rfl | ⟨a, f, rfl, ha, hd⟩ := hq
    · exact ⟨hi.within, hi.unicast⟩
    · refine ⟨fun n hn => ?_, fun p hp => ?_⟩
      · have hle := hi.within n hn
        have hne : s.cq.length ≠ n := fun hc => hd (by rw [hc]; exact hn)
        simp; omega
      · obtain hp | rfl := List.mem_append.mp hp |>.imp_right List.mem_singleton.mp
        · exact hi.unicast p hp
        · simpa using ha
  exact ⟨hcur, hw hi.buffer, hqueue.1, hqueue.2, hi.cacheForm, hi.modeForm, hi.config⟩

/-- Dispatch only takes pairs off the head of the queue. -/
theorem Dispatched.inv {s t : State} (h : Dispatched s t) (hi : Inv s) : Inv t where
  cursor := h.within hi.cursor
  buffer := by rw [h.cfg, h.buf]; exact hi.buffer
  within := fun n hn => h.cq.length_le.trans (hi.within n (by rwa [h.cfg] at hn))
  unicast := fun p hp => by rw [h.cfg]; exact hi.unicast p (h.cq.subset hp)
  cacheForm := h.cacheForm hi.cacheForm
  modeForm := h.modeForm hi.modeForm
  config := by rw [h.cfg]; exact hi.config

theorem Processed.inv {s t : State} (h : Processed s t) (hi : Inv s) : Inv t := by
  obtain ⟨ev, rfl⟩ | ⟨ws, ev, hws, h⟩ := h
  · exact { hi with }
  · exact h.inv { hi with cursor := Nat.zero_le _, buffer := hws }

theorem resetOp_inv {s : State} (hi : Inv s) : Inv (resetOp s) := { hi with cursor := Nat.zero_le _ }

theorem memory_wf_nil (capacity : Option Nat) : Memory.wf capacity [] = true :=
  memory_wf_iff.mpr fun n _ => Nat.zero_le n

theorem clearOp_inv {s : State} (b : Bool) (d : Driver) (hi : Inv s) : Inv (clearOp b (s.setDriver d)) := by
  cases b with
  | true => exact { hi with cursor := Nat.zero_le _, buffer := memory_wf_nil _ }
  | false =>
    exact { hi with
      cursor := Nat.zero_le _, buffer := memory_wf_nil _, within := fun n _ => Nat.zero_le n, unicast := nofun }

theorem config_wf_iff {c : Config} : c.wf = true ↔
    c.bufWords ≠ some 0 ∧ c.qDepth ≠ some 0 ∧ registryWf c.registry = true ∧ decodersOk c.registry = true := by
  simp [Config.wf, and_assoc]

/-- An entry in the grammar that keeps the registry well formed keeps the configuration acceptable. -/
theorem config_wf_append {c : Config} {e : Entry} (h : c.wf = true) (hr : registryWf (c.registry ++ [e]) = true)
    (hn : decoderNamesOk [] e.decoder = true) : ({ c with registry := c.registry ++ [e] } : Config).wf = true := by
  obtain ⟨hb, hq, -, hd⟩ := config_wf_iff.mp h
  refine config_wf_iff.mpr ⟨hb, hq, hr, ?_⟩
  unfold decodersOk at hd ⊢
  rw [List.all_append, hd, List.all_cons, hn, List.all_nil]; rfl

theorem BlockEffect.inv {o : HostOp} {s v : State} (h : BlockEffect o s v) (hi : Inv s) : Inv v := by
  cases h with
  | read h => exact h.inv hi
  | built h => exact h.inv hi
  | drove h => obtain ⟨_, _, rfl⟩ := h; exact { hi with }
  | counted => exact { hi with }
  | reset _ => exact resetOp_inv hi
  | cleared _ b d => exact clearOp_inv b d hi
  | framed _ h => exact h.inv hi
  | processed _ _ h => exact h.inv hi
  | registered e _ _ hwf hnames => exact { hi with config := config_wf_append hi.config hwf hnames }

/-- Settles O56: beginning and completing an operation touch no field of the invariant, and neither does the arbiter's state; each
kind of effect keeps it. -/
theorem stepKeepsTheInvariant : Obligations.StepKeepsTheInvariant := by
  intro s t hi ht
  cases hops : s.ops with
  | nil => rw [step_nil hops] at ht; cases ht; exact hi
  | cons o rest =>
    obtain ⟨r, v, x, rfl, hv⟩ := step_block hops ht
    exact { hv.inv (s := s.begin) { hi with } with }

/-- Settles O57: the block is empty after reset, and the configuration is that of the hardware. -/
theorem resetIsAGoodState : Obligations.ResetIsAGoodState where
  cursor := Nat.le_refl 0
  buffer := rfl
  within := nofun
  unicast := nofun
  cacheForm := rfl
  modeForm := rfl
  config := by decide +kernel

/-! ## O52: the cursor -/

/-- A frame moves the cursor forward, unless its function is unknown. -/
def Forward {α : Type} (s : State) (r : Ran α) : Prop :=
  match r with
  | .ok _ t => s.cur ≤ t.cur
  | .err e t => s.cur ≤ t.cur ∨ ∃ a f, e = .unknownResponse a f
  | .stop _ => True

theorem Ran.Leaves.forward {α : Type} {s : State} {r : Ran α} (h : r.Leaves fun t => s.cur ≤ t.cur) : Forward s r := by
  cases r with
  | ok _ _ => exact h
  | err _ _ => exact .inl h
  | stop _ => trivial

theorem Forward.trans {α : Type} {s t : State} {r : Ran α} (hst : s.cur ≤ t.cur) (h : Forward t r) : Forward s r := by
  cases r with
  | ok _ _ => exact hst.trans h
  | err _ _ => exact h.imp_left hst.trans
  | stop _ => trivial

theorem decodeReply_forward (a f : Byte) (s : State) : Forward s (decodeReply a f s) := by
  obtain ⟨e, -, h⟩ | ⟨e, -, -, h⟩ | ⟨-, -, h⟩ := decodeReply_cases a f s <;> rw [h]
  · exact ((runDecoder_decoded f a _ _ _).mono fun _ hd => hd.forward).forward
  · exact ((errorReply_decoded e a f _).mono fun _ hd => hd.forward).forward
  · exact .inr ⟨a, f, rfl⟩

theorem frameBody_forward (a f : Byte) (s : State) : Forward s (frameBody a f s) := by
  unfold frameBody
  obtain ⟨-, h⟩ | ⟨q, -, h⟩ | ⟨_, _, q, -, -, h⟩ := queueCheck_cases a f (expectedFunction s.cfg f) s <;> rw [h]
  · exact .inl (Nat.le_refl _)
  · exact decodeReply_forward a f (s.setCq q)
  · exact .inl (Nat.le_refl _)

theorem frameIteration_forward (s : State) : Forward s (frameIteration s) := by
  have hhead := frameHead_readOn s
  unfold frameIteration
  cases h : frameHead s with
  | ok o t =>
    rw [h] at hhead
    cases o with
    | none => exact ReadOn.forward hhead
    | some p => exact (frameBody_forward p.1 p.2 t).trans (ReadOn.forward hhead)
  | err e t => rw [h] at hhead; exact .inl (ReadOn.forward hhead)
  | stop x => trivial

theorem BlockEffect.forward {o : HostOp} {s v : State} (h : BlockEffect o s v) (ho : Claims.rewinds o = false)
    (hf : o ≠ .frame) : s.cur ≤ v.cur := by
  cases h with
  | read h => exact h.forward
  | built h => exact h.appended.cur.ge
  | drove h => obtain ⟨_, _, rfl⟩ := h; exact Nat.le_refl _
  | reset hr => cases hr.symm.trans ho
  | cleared hr _ _ => cases hr.symm.trans ho
  | framed hfr _ => exact absurd hfr hf
  | processed _ hr _ => cases hr.symm.trans ho
  | counted | registered _ _ _ _ _ => exact Nat.le_refl _

/-- Settles O52: no kind of effect moves the cursor back but those of the operations named; a frame iteration does only where its
function is unknown. -/
theorem cursorOnlyMovesForward : Obligations.CursorOnlyMovesForward := by
  intro s t o rest hops ho ht
  by_cases hf : o = .frame
  · subst hf
    have hfw := frameIteration_forward s.begin
    rw [step_cons hops] at ht
    rw [show runOp .frame s.begin = finish (frameIteration s.begin).noValue from stepFrame_eq _] at ht
    cases hr : frameIteration s.begin with
    | ok _ u => rw [hr] at ht hfw; cases ht; exact .inl hfw
    | err e u =>
      rw [hr] at ht hfw; cases ht
      obtain h | ⟨a, f, rfl⟩ := hfw
      · exact .inl h
      · exact .inr ⟨a, f, rfl⟩
    | stop x => rw [hr] at ht; cases ht
  · obtain ⟨r, v, x, rfl, hv⟩ := step_block hops ht
    exact .inl (hv.forward ho hf)

end Sys2Proof.Machine

/-! # What the block refuses

The model's checks against the terms of the claims: a well-formed registry, the grammar of a decoder, a reserved word; then the
refusals and the configuration; O51, O54, O55. -/

namespace Sys2Proof.Machine

open Sys2Proof Sys2Proof.Safety

/-! ## The registry and the grammar (R150, R152) -/

theorem registryWf_iff {r : List Entry} : registryWf r = true ↔ Claims.wellFormedRegistry r := by
  simp [registryWf, Claims.wellFormedRegistry, List.Nodup, List.pairwise_map, and_assoc]

/-- One step of the check: the name used is bound, and the name it binds is bound for the rest. -/
theorem decoderNamesOk_cons (bound : List FieldName) (d : DecoderStep) (rest : List DecoderStep) :
    decoderNamesOk bound (d :: rest) = true ↔
      (∀ v, Claims.uses d = some v → v ∈ bound) ∧ decoderNamesOk ((Claims.binds d).toList ++ bound) rest = true := by
  cases d with
  | readString len n => cases len <;> simp [decoderNamesOk, Claims.uses, Claims.binds]
  | setMode n => simp [decoderNamesOk, Claims.uses, Claims.binds]
  | _ => simp [decoderNamesOk, Claims.uses, Claims.binds]

/-- The check on a decoder whose first names are bound already. -/
theorem decoderNamesOk_iff (bound : List FieldName) (d : List DecoderStep) :
    decoderNamesOk bound d = true ↔
      ∀ before x after v, d = before ++ x :: after → Claims.uses x = some v →
        v ∈ bound ∨ ∃ y ∈ before, Claims.binds y = some v := by
  induction d generalizing bound with
  | nil => simp [decoderNamesOk]
  | cons d ds ih =>
    rw [decoderNamesOk_cons, ih]
    constructor
    · rintro ⟨hd, hds⟩ before x after v heq hv
      obtain ⟨rfl, heq⟩ | ⟨before, rfl, rfl⟩ := List.cons_eq_append_iff.mp heq
      · cases heq; exact .inl (hd v hv)
      · obtain hm | ⟨y, hy, hb⟩ := hds before x after v rfl hv
        · obtain hm | hm := List.mem_append.mp hm
          · exact .inr ⟨d, by simp, by simpa using hm⟩
          · exact .inl hm
        · exact .inr ⟨y, by simp [hy], hb⟩
    · refine fun h => ⟨fun v hv => ?_, fun before x after v heq hv => ?_⟩
      · obtain hm | ⟨y, hy, -⟩ := h [] d ds v rfl hv
        · exact hm
        · cases hy
      · obtain hm | ⟨y, hy, hb⟩ := h (d :: before) x after v (by rw [heq]; rfl) hv
        · exact .inl (List.mem_append_right _ hm)
        · obtain rfl | hy := List.mem_cons.mp hy
          · exact .inl (List.mem_append_left _ (by simp [hb]))
          · exact .inr ⟨y, hy, hb⟩

theorem decoderNamesOk_nil_iff {d : List DecoderStep} : decoderNamesOk [] d = true ↔ Claims.inGrammar d := by
  rw [decoderNamesOk_iff]
  simp [Claims.inGrammar]

/-- `add_response` by what it asks of its entry (R33, R150 to R152). -/
theorem addResponse_of_sealed {e : Entry} {s : State} (h : s.registrySealed = true) :
    addResponse e s = .stop .registryReadOnly := by
  simp [addResponse, h]

theorem addResponse_of_illFormed {e : Entry} {s : State} (hopen : s.registrySealed = false)
    (h : ¬ Claims.wellFormedRegistry (s.cfg.registry ++ [e])) : addResponse e s = .stop .illFormedRegistry := by
  rw [← registryWf_iff] at h
  simp [addResponse, hopen, h]

theorem addResponse_of_outsideGrammar {e : Entry} {s : State} (hopen : s.registrySealed = false)
    (hwf : Claims.wellFormedRegistry (s.cfg.registry ++ [e])) (h : ¬ Claims.inGrammar e.decoder) :
    addResponse e s = .stop .decoderOutsideGrammar := by
  rw [← registryWf_iff] at hwf
  rw [← decoderNamesOk_nil_iff] at h
  simp [addResponse, hopen, hwf, h]

theorem addResponse_of_accepted {e : Entry} {s : State} (hopen : s.registrySealed = false)
    (hwf : Claims.wellFormedRegistry (s.cfg.registry ++ [e])) (h : Claims.inGrammar e.decoder) :
    addResponse e s = .ok () (s.setCfg { s.cfg with registry := s.cfg.registry ++ [e] }) := by
  rw [← registryWf_iff] at hwf
  rw [← decoderNamesOk_nil_iff] at h
  simp [addResponse, hopen, hwf, h]

theorem addResponse_ends_iff {e : Entry} {s : State} : (addResponse e s).Ends ↔
    s.registrySealed = false ∧ Claims.wellFormedRegistry (s.cfg.registry ++ [e]) ∧ Claims.inGrammar e.decoder := by
  cases hs : s.registrySealed with
  | true => simp [addResponse_of_sealed hs]
  | false =>
    by_cases hwf : Claims.wellFormedRegistry (s.cfg.registry ++ [e])
    · by_cases hg : Claims.inGrammar e.decoder
      · simp [addResponse_of_accepted hs hwf hg, hwf, hg]
      · simp [addResponse_of_outsideGrammar hs hwf hg, hg]
    · simp [addResponse_of_illFormed hs hwf, hwf]

/-! ## Reserved words (R74) -/

theorem toNat_nibble (w : Word) : (nibble w).toNat = w.toNat / 4096 := by
  have := w.isLt
  simp [nibble, BitVec.extractLsb'_toNat, Nat.shiftRight_eq_div_pow]
  omega

/-- The model's test for a reserved word is the claims' predicate. -/
theorem reservedWord_iff {c : Config} {w : Word} : c.reservedWord w = true ↔ Claims.reserved c w := by
  have hzero : nibble w = 0#4 ↔ w.toNat < 0x1000 := by
    rw [← BitVec.toNat_inj, toNat_nibble]; simp
  have hhigh : 0xC ≤ (nibble w).toNat ↔ 0xC000 ≤ w.toNat := by rw [toNat_nibble]; omega
  unfold Config.reservedWord Config.reservedNibble Claims.reserved
  cases c.dialect <;> simp [hzero, hhigh, and_assoc]

theorem any_reservedWord_iff {c : Config} {ws : List Word} :
    ws.any c.reservedWord = true ↔ ∃ w ∈ ws, Claims.reserved c w := by
  simp [List.any_eq_true, reservedWord_iff]

theorem any_reservedWord_eq_false {c : Config} {ws : List Word} (h : ∀ w ∈ ws, ¬ Claims.reserved c w) :
    ws.any c.reservedWord = false :=
  Bool.eq_false_iff.mpr fun hany => by
    obtain ⟨w, hw, hr⟩ := any_reservedWord_iff.mp hany
    exact h w hw hr

theorem writeCommandFifo_of_reserved {ws : List Word} {n : Nat} {s : State} (h : ∃ w ∈ ws.take n, Claims.reserved s.cfg w) :
    writeCommandFifo ws n s = .stop .reservedWord := by
  simp [writeCommandFifo, any_reservedWord_iff.mpr h]

theorem writeCommandFifo_of_unreserved {ws : List Word} {n : Nat} {s : State}
    (h : ∀ w ∈ ws.take n, ¬ Claims.reserved s.cfg w) :
    writeCommandFifo ws n s = .ok () ((s.takeFree (n - ws.length)).setDriver
      { s.driver with commandFifo := s.driver.commandFifo ++ firstWords ws n s.free }) := by
  rw [writeCommandFifo, any_reservedWord_eq_false h]
  rfl

theorem writeCommandFifo_ends_iff {ws : List Word} {n : Nat} {s : State} :
    (writeCommandFifo ws n s).Ends ↔ ∀ w ∈ ws.take n, ¬ Claims.reserved s.cfg w := by
  by_cases h : ∀ w ∈ ws.take n, ¬ Claims.reserved s.cfg w
  · simp only [writeCommandFifo_of_unreserved h, Ran.ends_ok, true_iff]; exact h
  · have hres : ∃ w ∈ ws.take n, Claims.reserved s.cfg w := by simpa using h
    simp only [writeCommandFifo_of_reserved hres, Ran.ends_stop, false_iff]; exact h

/-! ## Processing a chunk -/

theorem processResponse_of_length {ws : List Word} {n : Nat} {s : State} (h : ws.length < n) :
    processResponse ws n s = .stop .lengthExceedsWords := by
  simp [processResponse, h]

theorem seat_ends (ws : List Word) (s : State) : (seat ws s).Ends := by
  unfold seat; split <;> simp

theorem runHook_cfg (h : Option Nat) (s : State) : (runHook h s).cfg = s.cfg := (runHook_dispatched h s).cfg

theorem seat_cfg {ws : List Word} {s t : State} (h : seat ws s = .ok () t) : t.cfg = s.cfg := by
  rw [seat_eq] at h
  split at h <;> cases h
  rfl

/-- A chunk within the words given is processed whatever it holds: every decoder of the registry is in the grammar. -/
theorem processResponse_ends_iff {ws : List Word} {n : Nat} {s : State} (hc : s.cfg.wf = true) :
    (processResponse ws n s).Ends ↔ n ≤ ws.length := by
  by_cases h : ws.length < n
  · simp [processResponse_of_length h, Nat.not_le.mpr h]
  · refine iff_of_true ?_ (Nat.le_of_not_lt h)
    rw [processResponse, if_neg h]
    refine (seat_ends _ _).andThen fun _ t ht => Ran.Ends.andThen (dispatchLoop_ends _ t ?_) fun _ _ _ => by simp
    rw [seat_cfg ht, runHook_cfg]
    exact hc

/-! ## The arbiter's actions -/

theorem arbGoto_ends_iff {α : Type} {r : Ran α} {next : α → ArbState} : (arbGoto r next).Ends ↔ r.Ends := by
  cases r <;> simp [arbGoto]

/-- An action its state does not have. -/
theorem arbiterStep_of_noRow {a : ArbAction} {s : State} (h : Claims.arbiterTable s.arb a [0] = none) :
    arbiterStep a s = .stop .arbiterNoTransition := by
  unfold arbiterStep
  split
  case h_11 => rfl
  case h_8 ws more harb =>
    rw [harb] at h
    cases more with
    | true => exact nomatch h
    | false => exact nomatch h
  all_goals
    rename_i harb
    rw [harb] at h
    cases h

/-- The arbiter ends on the rows of its table, but for a snapshot that holds a reserved word. -/
theorem arbiterStep_ends_iff {a : ArbAction} {s : State} (hc : s.cfg.wf = true) : (arbiterStep a s).Ends ↔
    Claims.arbiterTable s.arb a [0] ≠ none ∧ (s.arb = .send → ∀ w ∈ s.buf, ¬ Claims.reserved s.cfg w) := by
  have row {r : Ran Value} (he : r.Ends) (hs : s.arb ≠ .send) (hrow : Claims.arbiterTable s.arb a [0] ≠ none) : r.Ends ↔
      Claims.arbiterTable s.arb a [0] ≠ none ∧ (s.arb = .send → ∀ w ∈ s.buf, ¬ Claims.reserved s.cfg w) :=
    iff_of_true he ⟨hrow, fun hsend => absurd hsend hs⟩
  by_cases hnone : Claims.arbiterTable s.arb a [0] = none
  · rw [arbiterStep_of_noRow hnone]
    exact iff_of_false (by simp) fun h => h.1 hnone
  · unfold arbiterStep
    split
    case h_4 timeout harb =>
      rw [arbGoto_ends_iff, Ran.ends_noValue, writeCommandFifo_ends_iff, List.take_length]
      exact ⟨fun h => ⟨hnone, fun _ => h⟩, fun h => h.2 harb⟩
    case h_6 timeout harb => exact row (Ran.ends_map.mpr (arbGoto_ends_iff.mpr (by simp [readCount]))) (by simp [harb]) hnone
    case h_7 n timeout harb =>
      refine row (Ran.ends_map.mpr (arbGoto_ends_iff.mpr ?_)) (by simp [harb]) hnone
      unfold readWords
      split <;> simp
    case h_2 r harb => exact row (arbGoto_ends_iff.mpr (Ran.ends_noValue.mpr (runRequest_ends r s))) (by simp [harb]) hnone
    case h_8 ws more harb =>
      exact row (arbGoto_ends_iff.mpr (Ran.ends_noValue.mpr ((processResponse_ends_iff hc).mpr (Nat.le_refl _))))
        (by simp [harb]) hnone
    case h_9 timeout harb =>
      refine row (arbGoto_ends_iff.mpr (Ran.ends_noValue.mpr ?_)) (by simp [harb]) hnone
      unfold checkCommandedEmpty
      split <;> simp
    case h_11 =>
      refine absurd ?_ hnone
      unfold Claims.arbiterTable
      split <;> simp_all
    all_goals
      rename_i harb
      exact row (arbGoto_ends_iff.mpr ((Ran.ends_ok _ _).mpr trivial)) (by simp [harb]) hnone

/-! ## O55, O51, O54 -/

/-- Settles O55: each refusal is the operation's own, under the condition its rule names. -/
theorem refusalsHaveNoNextState : Obligations.RefusalsHaveNoNextState := by
  intro s rest
  have refused {o : HostOp} {r : Ran Value} {x : Refusal} (hops : s.ops = o :: rest) (hr : runOp o s.begin = finish r)
      (hx : r = .stop x) : step s = .refused x := by
    rw [step_cons hops, hr, hx]; rfl
  refine ⟨fun e hops hs => ?_, fun e hops hs hwf => ?_, fun e hops hs hwf hg => ?_, fun ws n hops hn => ?_,
    fun ws n timeout hops hw => ?_⟩
  · exact refused hops rfl (congrArg Ran.noValue (addResponse_of_sealed (s := s.begin) hs))
  · exact refused hops rfl (congrArg Ran.noValue (addResponse_of_illFormed (s := s.begin) hs hwf))
  · exact refused hops rfl (congrArg Ran.noValue (addResponse_of_outsideGrammar (s := s.begin) hs hwf hg))
  · exact refused hops rfl (congrArg Ran.noValue (processResponse_of_length hn))
  · exact refused hops rfl (congrArg Ran.noValue (writeCommandFifo_of_reserved (s := s.begin) hw))

/-- Settles O51: `add_response` is the one kind of effect that writes the configuration, and its checks are the rule's. -/
theorem configurationIsFixed : Obligations.ConfigurationIsFixed := by
  refine ⟨fun s t o rest hops ht => ?_, fun s e rest hops hopen hwf hg => ?_⟩
  · obtain ⟨r, v, x, rfl, hv⟩ := step_block hops ht
    obtain h | ⟨e, ho, hopen, hwf, hnames, h⟩ := hv.cfg
    · exact .inl h
    · refine .inr ⟨e, ho, hopen, h, ?_, decoderNamesOk_nil_iff.mp hnames⟩
      show Claims.wellFormedRegistry v.cfg.registry
      rw [h]
      exact registryWf_iff.mp hwf
  · have hrun := addResponse_of_accepted (s := s.begin) hopen hwf hg
    rw [step_cons hops]
    show finish (addResponse e s.begin).noValue = _
    rw [hrun]
    simp [State.complete, State.setCfg, State.begin, hops]

theorem finish_next_iff {r : Ran Value} : (∃ t, finish r = .next t) ↔ r.Ends := by
  cases r <;> simp

/-- Settles O54: the operations with a refusal end exactly under their contract, every other one always. -/
theorem everyOperationIsTaken : Obligations.EveryOperationIsTaken := by
  intro s o rest hi hops
  have hstep : Steps s ↔ ∃ t, runOp o s.begin = .next t := by rw [Steps, step_cons hops]
  rw [hstep]
  have always {r : Ran Value} (hr : runOp o s.begin = finish r) (he : r.Ends) (ho : Claims.withinContract s o = True) :
      (∃ t, runOp o s.begin = .next t) ↔ Claims.withinContract s o := by
    rw [hr, ho, iff_true]
    exact finish_next_iff.mpr he
  cases o with
  | addResponse e =>
    exact finish_next_iff.trans (Ran.ends_noValue.trans (addResponse_ends_iff (s := s.begin)))
  | processResponse ws n =>
    exact finish_next_iff.trans (Ran.ends_noValue.trans (processResponse_ends_iff (s := s.begin) hi.config))
  | writeCommandFifo ws n timeout =>
    exact finish_next_iff.trans (Ran.ends_noValue.trans (writeCommandFifo_ends_iff (s := s.begin)))
  | arbiter a => exact finish_next_iff.trans (arbiterStep_ends_iff (s := s.begin) hi.config)
  | word o =>
    obtain ⟨k, hk⟩ := stepWord_eq o (s := s.begin) hops
    refine always hk ?_ rfl
    cases s.begin.fetch with
    | none => simp only [wordOpAtEnd_eq]; split <;> simp
    | some w => exact applyWordOp_ends o k w _
  | decodeWord w =>
    have hop : s.begin.wordOp = some .classify := by simp [State.wordOp, hops, HostOp.wordOp]
    obtain ⟨k, hk⟩ := exec_word_of_op (level_decodeWord s.cfg w) (encode_decodeWord s.begin.cfg w) hop
    exact always hk (applyWordOp_ends _ k w _) rfl
  | frame => exact always (stepFrame_eq _) (Ran.ends_noValue.mpr (frameIteration_ends _ hi.config)) rfl
  | readWide k => exact always rfl (Ran.ends_map.mpr (readBytes_ends _ _)) rfl
  | readString n => exact always rfl (readString_ends n _) rfl
  | checkCrc => exact always rfl (Ran.ends_noValue.mpr (checkCrc_ends _)) rfl
  | write p => exact always rfl (Ran.ends_noValue.mpr (writeBytes_ends _ _)) rfl
  | writeCrc => exact always rfl (Ran.ends_noValue.mpr (writeCrc_ends _)) rfl
  | writeDelay _ | writeWaitForRx _ | writeEndOfFrame | writeRxEndFrame =>
    exact always rfl (Ran.ends_noValue.mpr (emit_ends _ _)) rfl
  | pushCommanded a f => exact always rfl (Ran.ends_noValue.mpr (pushCommanded_ends a f _)) rfl
  | checkCommandedEmpty =>
    refine always rfl (Ran.ends_noValue.mpr ?_) rfl
    unfold checkCommandedEmpty
    split <;> simp
  | request r => exact always rfl (Ran.ends_noValue.mpr (runRequest_ends r _)) rfl
  | readU16ResponseFifo n _ =>
    refine always rfl (Ran.ends_map.mpr ?_) rfl
    unfold readU16ResponseFifo readCount readWords
    split
    · simp
    · split <;> simp
  | endOfBuffer | recordChanges | pauseRecordChanges | checkRecording _ | nextBroadcastCounter | reset | clear _ | snapshot
  | writeRequestFifo _ | fpgaTake _ | fpgaSupply _ => exact always rfl ((Ran.ends_ok _ _).mpr trivial) rfl

end Sys2Proof.Machine

/-! # Instruction words under the read operations

Each read operation on a word of every kind, by the word that the instruction has for its encoding; O5 to O11. -/

namespace Sys2Proof.Machine

open Sys2Proof

section
variable {i : Instr} {w : Word} {s : State}

/-! ## O5, O6: `next`, `peek` and byte reads -/

/-- Settles O5: `next` and `peek` do not look at the word's class. -/
theorem nextAndPeekTakeAnyWord : Obligations.NextAndPeekTakeAnyWord := by
  refine fun i w s hl he => ⟨fun hop => ?_, fun hop => ?_⟩
  · obtain ⟨k, hk⟩ := exec_word_of_op hl he hop
    exact hk
  · obtain ⟨k, hk⟩ := exec_word_of_op hl he hop
    exact hk

/-- The byte of a word is given by the dialect (R68, R69). -/
theorem decByte_eq_of_dialect {c : Config} {b : Byte} (hilc : c.dialect = .ilc → b = w.extractLsb' 1 8)
    (hplain : c.dialect = .plain → b = w.extractLsb' 0 8) : c.decByte w = b := by
  unfold Config.decByte
  cases hd : c.dialect with
  | ilc => exact (hilc hd).symm
  | plain => exact (hplain hd).symm

/-- Settles O6: both byte reads take the word's byte as `ReadByte(true)` does, whatever the word's class. -/
theorem byteReadTakesAnyWord : Obligations.ByteReadTakesAnyWord := by
  intro i w s b hl he hilc hplain
  have hb := decByte_eq_of_dialect hilc hplain
  refine ⟨fun hop => ?_, fun hop => ?_⟩ <;>
  · obtain ⟨k, hk⟩ := exec_word_of_op hl he hop
    rw [hk]
    simp [applyWordOp, takeByte_eq, hb, State.complete]

/-! ## O7, O8: the time words -/

theorem timeOf_of_other {short long : Nibble} (hs : nibble w ≠ short) (hl : nibble w ≠ long) : timeOf short long w = none := by
  simp [timeOf, hs, hl]

/-- A word that holds a time is consumed. -/
theorem takeTime_of_some {short long : Nibble} {us : Nat} (h : timeOf short long w = some us) (s : State) :
    finish (takeTime short long w s) =
      .next { s with cur := s.cur + 1, result := some (.ok (.uint us)), ops := s.ops.tail } := by
  rw [takeTime, h]; rfl

/-- A word that holds none is left where it is. -/
theorem takeTime_of_none {short long : Nibble} (h : timeOf short long w = none) (s : State) :
    finish (takeTime short long w s) =
      .next { s with result := some (.err (.framingError w s.cur)), ops := s.ops.tail } := by
  rw [takeTime, h]; rfl

theorem exec_of_readDelay (hop : s.wordOp = some .readDelay) (hl : i.level = .word) (he : encode s.cfg i = [w]) :
    exec i s = finish (takeTime 0x4 0x5 w s) := by
  obtain ⟨k, hk⟩ := exec_word_of_op hl he hop
  exact hk

theorem exec_of_readWaitForRx (hop : s.wordOp = some .readWaitForRx) (hl : i.level = .word) (he : encode s.cfg i = [w]) :
    exec i s = finish (takeTime s.cfg.waitShortCmd s.cfg.waitLongCmd w s) := by
  obtain ⟨k, hk⟩ := exec_word_of_op hl he hop
  exact hk

/-- Settles O7: the delay nibbles are 0x4 and 0x5 in every dialect; a word of another nibble holds no delay. -/
theorem readDelayOnEveryWord : Obligations.ReadDelayOnEveryWord := by
  intro s hop
  refine ⟨fun us => ?_, fun ms => ?_, fun i w hl he hshort hlong => ?_⟩
  · rw [exec_of_readDelay hop rfl rfl, takeTime_of_some (timeOf_mkWord_short _ _ us)]
  · rw [exec_of_readDelay hop rfl rfl, takeTime_of_some (timeOf_mkWord_long (by decide) ms)]
  · rw [exec_of_readDelay hop hl he, takeTime_of_none (timeOf_of_other hshort hlong)]

/-- Settles O8: the wait nibbles are the configuration's; with 0x6 and 0x9 they are those of WAITRX and LWAITRX. -/
theorem readWaitOnEveryWord : Obligations.ReadWaitOnEveryWord := by
  intro s hop
  refine ⟨fun i w hl he => ⟨fun hs => ?_, fun hs hlong => ?_, fun hs hlong => ?_⟩,
    fun hs hlong => ⟨fun us => ?_, fun ms => ?_⟩⟩
  · rw [exec_of_readWaitForRx hop hl he, takeTime_of_some (by rw [timeOf, if_pos hs])]
  · rw [exec_of_readWaitForRx hop hl he, takeTime_of_some (by rw [timeOf, if_neg hs, if_pos hlong])]
  · rw [exec_of_readWaitForRx hop hl he, takeTime_of_none (timeOf_of_other hs hlong)]
  · rw [exec_of_readWaitForRx hop rfl rfl, hs, takeTime_of_some (timeOf_mkWord_short _ _ us)]
  · rw [exec_of_readWaitForRx hop rfl rfl, hs, hlong, takeTime_of_some (timeOf_mkWord_long (by decide) ms)]

/-! ## O9: the sentinels -/

/-- The word of a well-formed instruction other than FRAMEEND is not `TX_FRAMEEND`: that word decodes to FRAMEEND. -/
theorem ne_txFrameend_of_wellFormed {c : Config} (hl : i.level = .word) (hne : i ≠ .frameend) (hw : wellFormed c i = true)
    (he : encode c i = [w]) : w ≠ c.txFrameend := by
  rintro rfl
  refine hne ?_
  rw [← decodeWord_encode hl hw he, decodeWord, if_pos rfl]

theorem ne_rxEndframe_of_wellFormed {c : Config} (hl : i.level = .word) (hne : i ≠ .rxend) (hw : wellFormed c i = true)
    (hc : c.rxEndframe ≠ c.txFrameend) (he : encode c i = [w]) : w ≠ c.rxEndframe := by
  rintro rfl
  refine hne ?_
  rw [← decodeWord_encode hl hw he, decodeWord, if_neg hc, if_pos rfl]

/-- Settles O9: each test compares the word with its sentinel, and a well-formed instruction of another row has another word. -/
theorem sentinelTestsOnEveryWord : Obligations.SentinelTestsOnEveryWord := by
  refine fun s => ⟨fun hop => ⟨?_, fun i w hl hne hw he => ?_⟩, fun hop => ⟨?_, fun i hl hne hw hc => ?_⟩⟩
  · obtain ⟨k, hk⟩ := exec_word_of_op (i := .frameend) rfl rfl hop
    rw [hk, applyWordOp, takeEndOfFrame, if_pos rfl]
    rfl
  · obtain ⟨k, hk⟩ := exec_word_of_op hl he hop
    rw [hk, applyWordOp, takeEndOfFrame, if_neg (ne_txFrameend_of_wellFormed hl hne hw he)]
    rfl
  · obtain ⟨k, hk⟩ := exec_word_of_op (i := .rxend) rfl rfl hop
    rw [hk, applyWordOp, decide_eq_true rfl]
    rfl
  · obtain ⟨w, he⟩ := encode_of_level_word s.cfg hl
    obtain ⟨k, hk⟩ := exec_word_of_op hl he hop
    rw [hk, applyWordOp, decide_eq_false (ne_rxEndframe_of_wellFormed hl hne hw hc he)]
    rfl

/-! ## O10: the class of a word -/

theorem highByte_eq_zero_iff : (w.extractLsb' 8 8 : BitVec 8) = 0 ↔ w.toNat < 0x100 := by
  have := w.isLt
  rw [← BitVec.toNat_inj]
  simp [BitVec.extractLsb'_toNat, Nat.shiftRight_eq_div_pow]
  omega

theorem payload_eq_ofNat (w : Word) : payload w = BitVec.ofNat 12 w.toNat := by
  apply BitVec.eq_of_toNat_eq
  rw [payload, BitVec.extractLsb'_toNat, Nat.shiftRight_zero, BitVec.toNat_ofNat]

theorem dataByte_eq_ofNat (w : Word) : (w.extractLsb' 1 8 : Byte) = BitVec.ofNat 8 (w.toNat / 2) := by
  apply BitVec.eq_of_toNat_eq
  rw [BitVec.extractLsb'_toNat, Nat.shiftRight_one, BitVec.toNat_ofNat]

theorem lowByte_eq_ofNat (w : Word) : (w.extractLsb' 0 8 : Byte) = BitVec.ofNat 8 w.toNat := by
  apply BitVec.eq_of_toNat_eq
  rw [BitVec.extractLsb'_toNat, Nat.shiftRight_zero, BitVec.toNat_ofNat]

/-- Past the whole-word tests, executing the nibble's row is the issued operation on the word and the class of its nibble. -/
theorem exec_decodeNibble {c : Config} (w : Word) (s : State) (htx : w ≠ c.txFrameend) (hrx : w ≠ c.rxEndframe)
    (hp : ¬ (c.dialect = .plain ∧ w.toNat < 0x100)) :
    exec (decodeNibble w) s = executeWord (Claims.specClass c w) w s := by
  have hword {n : Nibble} (hn : (nibble w).toNat = n.toNat) : mkWord n (payload w) = w :=
    eq_mkWord_of_nibble (BitVec.eq_of_toNat_eq hn)
  have hlt := (nibble w).isLt
  rw [Claims.specClass, if_neg htx, if_neg hrx, if_neg hp, ← toNat_nibble, ← payload_eq_ofNat, ← dataByte_eq_ofNat]
  unfold decodeNibble
  split
  case h_2 hn =>
    show executeWord _ (mkWord 0x1 (mkWritePayload _ _ _)) s = _
    rw [mkWritePayload_of_fields, hword (n := 1) hn, hn]
    rfl
  case h_16 =>
    have hn : (nibble w).toNat = 15 := by
      simp only [imp_false] at *
      omega
    rw [hn]
    show executeWord _ (mkWord 0xF _) s = _
    rw [hword (n := 15) hn]
    rfl
  all_goals
    rename_i hn
    rw [hn]
    refine congrArg (executeWord _ · s) (hword hn)

/-- Executing what a word decodes to is the issued operation on that word and the class R73 gives it. -/
theorem exec_decodeWord (w : Word) (s : State) :
    exec (decodeWord s.cfg w) s = executeWord (Claims.specClass s.cfg w) w s := by
  by_cases htx : w = s.cfg.txFrameend
  · rw [decodeWord, Claims.specClass, if_pos htx, if_pos htx, htx]; rfl
  · by_cases hrx : w = s.cfg.rxEndframe
    · rw [decodeWord, Claims.specClass, if_neg htx, if_neg htx, if_pos hrx, if_pos hrx, hrx]; rfl
    · simp only [decodeWord, if_neg htx, if_neg hrx, highByte_eq_zero_iff]
      by_cases hp : s.cfg.dialect = .plain ∧ w.toNat < 0x100
      · rw [if_pos hp, Claims.specClass, if_neg htx, if_neg hrx, if_pos hp]
        show executeWord (.byte _) _ s = _
        rw [setWidth_lowByte (highByte_eq_zero_iff.mpr hp.2), lowByte_eq_ofNat]
      · rw [if_neg hp]
        exact exec_decodeNibble w s htx hrx hp

/-- Settles O10: the step executes what the word decodes to, under `decode_word`, which returns the class and changes nothing. -/
theorem classifyIsDecodeWord : Obligations.ClassifyIsDecodeWord := by
  intro s w rest hops
  have hop : s.begin.wordOp = some .classify := by simp [State.wordOp, hops, HostOp.wordOp]
  rw [step_cons hops]
  show exec (decodeWord s.begin.cfg w) s.begin = _
  rw [exec_decodeWord, executeWord_of_op hop, applyWordOp, finish_ok, complete_begin hops]
  rfl

/-! ## O11: the end of the buffer -/

theorem stepWord_of_end {o : WordOp} (h : s.buf.length ≤ s.cur) :
    stepWord o s = .next (s.complete (if o = .endOfFrame then .ok (.bool false) else .err (.endOfBuffer s.cur))) := by
  rw [stepWord, fetch_eq_none.mpr h]
  cases o <;> rfl

/-- `check_crc` with no word left. -/
theorem checkCrc_of_end (h : s.buf.length ≤ s.cur) : checkCrc s = .err (.endOfBuffer s.cur) (s.setRecording false) := by
  rw [checkCrc, readByteNoCrc_of_end (s := s.setRecording false) (fetch_eq_none.mpr h)]
  rfl

/-- `check_crc` with one word left: the word is consumed. -/
theorem checkCrc_of_one (h : s.buf.length = s.cur + 1) :
    checkCrc s = .err (.endOfBuffer (s.cur + 1)) { s with cur := s.cur + 1, recording := false } := by
  obtain ⟨w, hw⟩ : ∃ w, s.fetch = some w := ⟨s.buf[s.cur], by simp [State.fetch, h]⟩
  rw [checkCrc, readByteNoCrc_of_word (s := s.setRecording false) hw, Ran.andThen_ok, readByteNoCrc_of_end]
  · rfl
  · exact fetch_eq_none.mpr h.le

/-- Settles O11: at the end no word is fetched, so each read is its own answer there; `check_crc` ends recording before it reads. -/
theorem wordReadsAtTheEndOfTheBuffer : Obligations.WordReadsAtTheEndOfTheBuffer := by
  refine ⟨fun s o rest hops hend => ?_, fun s rest hops => ⟨fun hend => ?_, fun hone => ?_⟩⟩
  · rw [step_cons hops]
    show stepWord o s.begin = _
    rw [stepWord_of_end (s := s.begin) hend, complete_begin hops]
    rfl
  · rw [step_cons hops]
    show finish (checkCrc s.begin).noValue = _
    rw [checkCrc_of_end (s := s.begin) hend]
    simp [State.complete, State.setRecording, State.begin, hops]
  · rw [step_cons hops]
    show finish (checkCrc s.begin).noValue = _
    rw [checkCrc_of_one (s := s.begin) hone]
    simp [State.complete, State.begin, hops]

end

end Sys2Proof.Machine

/-! # The step

A step runs the decoded instruction: the head of a frame, the placed program, and the host operations on the record, the queue and
the buffer; O12, O13, O47, O49, O58. -/

namespace Sys2Proof.Machine

open Sys2Proof

/-! ## The head of a frame (R153, R155, R161) -/

theorem frameHead_of_end {s : State} (h : s.buf.length ≤ s.cur) : frameHead s = .ok none s := by
  rw [frameHead, if_pos (endOfBuffer_iff.mpr h)]

section
variable {s : State} {wa : Word} (hwa : s.buf[s.cur]? = some wa)
include hwa

theorem endOfBuffer_of_word : s.endOfBuffer = false := by
  rw [State.endOfBuffer, decide_eq_false_iff_not, Nat.not_le]
  exact (fetch_eq_some hwa).1

theorem endOfFrame_of_word : s.endOfFrame = decide (wa = s.cfg.rxEndframe) := by
  simp [State.endOfFrame, State.fetch, hwa]

theorem frameHead_of_delimiter (hp : s.cfg.rxDelimiterPolicy = .skip) (hw : wa = s.cfg.rxEndframe) :
    frameHead s = .ok none s.advance := by
  simp [frameHead, endOfBuffer_of_word hwa, endOfFrame_of_word hwa, hp, hw]

theorem frameHead_of_header (hd : s.cfg.rxDelimiterPolicy = .keep ∨ wa ≠ s.cfg.rxEndframe) :
    frameHead s = (readHeader s).map some := by
  have hnot : ¬ (s.cfg.rxDelimiterPolicy = .skip ∧ s.endOfFrame = true) := by
    rw [endOfFrame_of_word hwa, decide_eq_true_iff]
    rintro ⟨hp, hw⟩
    exact hd.elim (fun hk => by cases hp.symm.trans hk) fun hne => hne hw
  rw [frameHead, endOfBuffer_of_word hwa, if_neg Bool.false_ne_true, if_neg hnot]

/-- The address byte: consumed and added to the CRC, not recorded. -/
theorem readByte_untapped : readByte false s = .ok (s.cfg.decByte wa) { s with
    cur := s.cur + 1, crc := crcByte s.crc (s.cfg.decByte wa) } := by
  rw [readByte_of_word hwa, Bool.and_false]
  rfl

theorem readHeader_of_words {wf : Word} (hwf : s.buf[s.cur + 1]? = some wf) :
    readHeader s = .ok (s.cfg.decByte wa, s.cfg.decByte wf) { s with
      cur := s.cur + 2, crc := crcByte (crcByte s.crc (s.cfg.decByte wa)) (s.cfg.decByte wf) } := by
  rw [readHeader, readByte_untapped hwa, Ran.andThen_ok, readByte_untapped (wa := wf) hwf]
  rfl

theorem readHeader_of_one (h : s.buf.length = s.cur + 1) :
    readHeader s = .err (.endOfBuffer (s.cur + 1)) { s with
      cur := s.cur + 1, crc := crcByte s.crc (s.cfg.decByte wa) } := by
  rw [readHeader, readByte_untapped hwa, Ran.andThen_ok, readByte_of_end]
  · rfl
  · exact fetch_eq_none.mpr h.le

end

/-- A frame iteration whose header was read runs the row its function byte names, or its body. -/
theorem stepFrame_of_head {s t : State} {a f : Byte} (h : frameHead s = .ok (some (a, f)) t) :
    (∀ i, decodeFrame a f = .ok i → stepFrame s = exec i t) ∧ stepFrame s = finish (frameBody a f t).noValue := by
  refine ⟨fun i hi => ?_, ?_⟩
  · simp only [stepFrame, h, hi]
  · rw [stepFrame_eq, frameIteration, h]
    rfl

/-! ## O12 -/

/-- Settles O12: a one-word read fetches and decodes the word at the cursor, a frame iteration the header there; the head of a frame is
the end, a delimiter, a header or a header cut short. -/
theorem stepRunsTheDecodedInstruction : Obligations.StepRunsTheDecodedInstruction := by
  intro s
  have headed {wa wf : Word} (hwa : s.buf[s.cur]? = some wa) (hwf : s.buf[s.cur + 1]? = some wf)
      (hd : s.cfg.rxDelimiterPolicy = .keep ∨ wa ≠ s.cfg.rxEndframe) :
      frameHead s.begin = .ok (some (s.cfg.decByte wa, s.cfg.decByte wf)) { s with
        result := none, events := [], cur := s.cur + 2
        crc := crcByte (crcByte s.crc (s.cfg.decByte wa)) (s.cfg.decByte wf) } := by
    rw [frameHead_of_header (s := s.begin) hwa hd, readHeader_of_words (s := s.begin) hwa hwf]
    rfl
  refine ⟨step_nil, fun o rest w hops hw => ?_, fun rest wa wf i hops hwa hwf hd hi => ?_,
    fun rest wa wf hops hwa hwf hd _ => ?_, fun rest hops => ⟨fun hend => ?_, fun wa hwa hp hw => ?_, fun wa hwa hone hd => ?_⟩⟩
  · rw [step_cons hops]
    show stepWord o s.begin = _
    rw [stepWord, show s.begin.fetch = some w from hw]
    rfl
  · rw [step_cons hops]
    exact (stepFrame_of_head (headed hwa hwf hd)).1 i hi
  · rw [step_cons hops]
    exact (stepFrame_of_head (headed hwa hwf hd)).2
  · rw [step_cons hops]
    show stepFrame s.begin = _
    rw [stepFrame, frameHead_of_end (s := s.begin) hend]
    exact congrArg _ (complete_begin hops _)
  · rw [step_cons hops]
    show stepFrame s.begin = _
    rw [stepFrame, frameHead_of_delimiter (s := s.begin) hwa hp hw]
    simp [done, State.advance, State.setCur, State.complete, State.begin, hops]
  · rw [step_cons hops]
    show stepFrame s.begin = _
    rw [stepFrame, frameHead_of_header (s := s.begin) hwa hd, readHeader_of_one (s := s.begin) hwa hone]
    simp [State.complete, State.begin, hops]

/-! ## O13: a placed table row -/

/-- The opcode decoder sees the dialect and the two sentinels of a configuration. -/
theorem decodeWord_congr {c c' : Config} (hd : c.dialect = c'.dialect) (ht : c.txFrameend = c'.txFrameend)
    (hr : c.rxEndframe = c'.rxEndframe) (w : Word) : decodeWord c w = decodeWord c' w := by
  simp only [decodeWord, hd, ht, hr]

theorem nativeOp_of_level_word {i : Instr} (h : i.level = .word) : ∃ o, nativeOp i = .word o := by
  cases i <;> first | exact ⟨_, rfl⟩ | cases h

/-- Words placed at the cursor stand at the cursor. -/
theorem placeAtCursor_getElem? (s : State) (ws : List Word) {k : Nat} (hk : k < ws.length) :
    (s.placeAtCursor ws).buf[(s.placeAtCursor ws).cur + k]? = some ws[k] := by
  have hlen : (s.buf.take s.cur).length = min s.cur s.buf.length := List.length_take
  show (s.buf.take s.cur ++ ws ++ s.buf.drop (s.cur + ws.length))[min s.cur s.buf.length + k]? = some ws[k]
  rw [List.append_assoc, List.getElem?_append_right (by omega), hlen, Nat.add_sub_cancel_left,
    List.getElem?_append_left hk, List.getElem?_eq_getElem hk]

/-- Settles O13: the placed word is read under its row's dialect and sentinels by the operation that consumes it; the placed header
holds address 0 and the function byte in the codec of the configuration. -/
theorem fetchedTableWordRuns : Obligations.FetchedTableWordRuns := by
  refine fun s n i => ⟨fun _ hi => ?_, fun _ hi => ?_⟩
  · have hdec : decodeWord (s.withFetchWord 16 n).cfg (BitVec.ofNat 16 n) = i :=
      Option.some.inj ((congrArg some (decodeWord_congr rfl rfl rfl _)).trans hi)
    obtain ⟨o, ho⟩ := nativeOp_of_level_word (level_decodeWord (s.withFetchWord 16 n).cfg (BitVec.ofNat 16 n))
    have hops : (s.withFetchWord 16 n).ops = .word o :: s.ops := congrArg (· :: s.ops) ho
    have hfetch : (s.withFetchWord 16 n).buf[(s.withFetchWord 16 n).cur]? = some (BitVec.ofNat 16 n) :=
      placeAtCursor_getElem? _ [BitVec.ofNat 16 n] (k := 0) (by simp)
    rw [(stepRunsTheDecodedInstruction _).2.1 o s.ops _ hops hfetch, hdec]
    rfl
  · have hrow : decodeFrame 0 (BitVec.ofNat 8 n) = .ok i := by
      rw [decodeTableWord, if_neg (by decide), if_pos rfl] at hi
      split at hi
      · cases hi; assumption
      · cases hi
    have hops : (s.withFetchWord 8 n).ops = .frame :: s.ops := rfl
    have hword {k : Nat} (hk : k < 2) :=
      placeAtCursor_getElem? (s.setCfg { s.cfg with rxDelimiterPolicy := .keep })
        [s.cfg.layByte 0, s.cfg.layByte (BitVec.ofNat 8 n)] hk
    refine ⟨_, (stepRunsTheDecodedInstruction (s.withFetchWord 8 n)).2.2.1 s.ops _ _ i hops
      (hword (k := 0) (by decide)) (hword (k := 1) (by decide)) (.inl rfl) ?_, rfl, rfl, rfl⟩
    have hlay (b : Byte) : (s.withFetchWord 8 n).cfg.decByte (s.cfg.layByte b) = b := Config.decByte_layByte s.cfg b
    show decodeFrame (Config.decByte _ (s.cfg.layByte 0)) (Config.decByte _ (s.cfg.layByte _)) = _
    rw [hlay, hlay, hrow]

/-! ## O49: the record, the queue and the buffer -/

theorem checkCommandedEmpty_eq (s : State) :
    finish (checkCommandedEmpty s).noValue =
      .next (s.complete (if s.cq = [] then .ok .none else .err (.commandedNonEmpty s.cq))) := by
  unfold checkCommandedEmpty
  split <;> rfl

/-- An empty chunk is seated and there is nothing to dispatch. -/
theorem processResponse_empty {ws : List Word} {s : State} (hpre : s.cfg.preProcess = none) (hpost : s.cfg.postProcess = none) :
    processResponse ws 0 s = .ok () { s with buf := [], cur := 0, crc := 0xFFFF, registrySealed := true } := by
  have hseat : seat [] (s.setRegistrySealed true) =
      .ok () { s with buf := [], cur := 0, crc := 0xFFFF, registrySealed := true } := by
    rw [seat_eq, if_pos (memory_wf_nil _)]; rfl
  rw [processResponse, if_neg (Nat.not_lt_zero _), hpre, runHook, List.take_zero, hseat]
  simp [dispatchAll, dispatchLoop, hpost, runHook]

/-- A chunk beyond the bound is not seated. -/
theorem processResponse_of_full {ws : List Word} {n m : Nat} {s : State} (hpre : s.cfg.preProcess = none)
    (hn : n ≤ ws.length) (hb : s.cfg.bufWords = some m) (hm : m < n) :
    processResponse ws n s = .err (.bufferFull n) { s with registrySealed := true } := by
  have hlen : (ws.take n).length = n := by simp [hn]
  have hfull : ¬ Memory.wf (s.setRegistrySealed true).cfg.bufWords (ws.take n) = true := by
    intro hwf
    have := memory_wf_iff.mp hwf m hb
    omega
  rw [processResponse, if_neg (Nat.not_lt.mpr hn), hpre, runHook, seat_eq, if_neg hfull, hlen]
  rfl

/-- Settles O49: each operation runs on the begun state, whose block fields are those of `s`, and is completed. -/
theorem recorderQueueAndSnapshotOperations : Obligations.RecorderQueueAndSnapshotOperations := by
  refine fun s rest => ⟨fun hops => ?_, fun hops => ?_, fun cached hops => ?_, fun hops => ?_, fun hops => ?_,
    fun ws hops hpre hpost => ?_, fun ws n m hops hpre hn hb hm => ?_⟩
  all_goals rw [step_cons hops, runOp]
  · simp [done, recordChanges, State.setRecord, State.setRecording, State.complete, State.begin, hops]
  · simp [done, pauseRecordChanges, State.setRecording, State.complete, State.begin, hops]
  · rw [finish_ok, complete_begin hops]; rfl
  · rw [checkCommandedEmpty_eq, complete_begin hops]; rfl
  · rw [finish_ok, complete_begin hops]; rfl
  · rw [processResponse_empty (s := s.begin) hpre hpost]
    simp [State.complete, State.begin, hops]
  · rw [processResponse_of_full (s := s.begin) hpre hn hb hm]
    simp [State.complete, State.begin, hops]

/-! ## O47, O58 -/

/-- Settles O47: R196's two cases, and its two values through the time word of the wait commands, 335 short and 100000 long. -/
theorem modeTimeoutRule : Obligations.ModeTimeoutRule := by
  refine ⟨fun previous new => ⟨fun h => if_pos h, fun h => if_neg h⟩, fun r => ⟨?_, ?_⟩⟩
  · rw [timeWord_short (by decide)]; decide
  · rw [timeWord_long (by decide)]
    cases r <;> decide

/-- Settles O58: the power-on state by its fields, and the two operations by theirs. -/
theorem resetAndClearLeaveWhatTheySay : Obligations.ResetAndClearLeaveWhatTheySay :=
  ⟨⟨rfl, rfl, rfl, rfl, rfl, rfl, fun _ _ => rfl, fun _ => rfl, rfl⟩, fun _ => rfl, fun _ => rfl, fun _ => rfl⟩

end Sys2Proof.Machine

/-! # Values and byte lists

The bytes of a value in both byte orders, the CRC as a check, the time words; O27, O29, O32, O35, O36, O45. -/

namespace Sys2Proof.Machine

open Sys2Proof

/-! ## Appended bytes -/

theorem toNat_append_byte {n : Nat} (x : BitVec n) (b : Byte) : (x ++ b).toNat = x.toNat * 256 + b.toNat := by
  rw [BitVec.toNat_append, ← Nat.shiftLeft_add_eq_or_of_lt b.isLt, Nat.shiftLeft_eq]

theorem natBE_concat (bs : List Byte) (b : Byte) : natBE (bs ++ [b]) = natBE bs * 256 + b.toNat := by
  rw [natBE_append]
  simp [natBE]

/-- A byte list read little-endian is its reverse read big-endian. -/
theorem natLE_eq_natBE_reverse (bs : List Byte) : natLE bs = natBE bs.reverse := by
  induction bs with
  | nil => rfl
  | cons b bs ih => rw [natLE, List.reverse_cons, natBE_concat, ih]; ring

theorem natBE_two (b0 b1 : Byte) : natBE [b0, b1] = (b0 ++ b1 : BitVec 16).toNat := by
  simp [natBE, toNat_append_byte]

theorem natBE_four (b0 b1 b2 b3 : Byte) : natBE [b0, b1, b2, b3] = (b0 ++ b1 ++ b2 ++ b3 : BitVec 32).toNat := by
  simp [natBE, toNat_append_byte]

theorem natBE_six (b0 b1 b2 b3 b4 b5 : Byte) :
    natBE [b0, b1, b2, b3, b4, b5] = (b0 ++ b1 ++ b2 ++ b3 ++ b4 ++ b5 : BitVec 48).toNat := by
  simp [natBE, toNat_append_byte]

theorem natBE_eight (b0 b1 b2 b3 b4 b5 b6 b7 : Byte) :
    natBE [b0, b1, b2, b3, b4, b5, b6, b7] = (b0 ++ b1 ++ b2 ++ b3 ++ b4 ++ b5 ++ b6 ++ b7 : BitVec 64).toNat := by
  simp [natBE, toNat_append_byte]

/-- The bytes of a value end with its last byte. -/
theorem bytesBE_concat (v : Nat) (b : Byte) (n : Nat) : bytesBE (v * 256 + b.toNat) (n + 1) = bytesBE v n ++ [b] := by
  have hb := b.isLt
  induction n with
  | zero =>
    have : BitVec.ofNat 8 (v * 256 + b.toNat) = b := by
      apply BitVec.eq_of_toNat_eq
      rw [BitVec.toNat_ofNat]
      omega
    simp [bytesBE_succ, this]
  | succ n ih =>
    have hshift : (v * 256 + b.toNat) >>> (8 * (n + 1)) = v >>> (8 * n) := by
      have hbyte : (v * 256 + b.toNat) >>> 8 = v := by
        rw [Nat.shiftRight_eq_div_pow]
        omega
      rw [show 8 * (n + 1) = 8 + 8 * n by omega, Nat.shiftRight_add, hbyte]
    rw [bytesBE_succ, ih, bytesBE_succ v, hshift]
    rfl

theorem bytesBE_append_byte {m : Nat} (x : BitVec m) (b : Byte) (n : Nat) :
    bytesBE (x ++ b).toNat (n + 1) = bytesBE x.toNat n ++ [b] := by
  rw [toNat_append_byte, bytesBE_concat]

/-! ## O35, O36: wide reads and writes -/

section
variable {s t : State}

/-- A wide read is the value of the bytes read. -/
theorem readWide_of_bytes {k : WideKind} {bs : List Byte} {v : Value} (h : readBytes (wideLength k) s = .ok bs t)
    (hv : wideValue k bs = v) : readWide k s = .ok v t := by
  rw [readWide, h, Ran.map_ok, hv]

theorem readWide_two {b0 b1 : Byte} (h : readBytes 2 s = .ok [b0, b1] t) :
    readWide .u16 s = .ok (.uint (b0 ++ b1 : BitVec 16).toNat) t ∧
    readWide .s16 s = .ok (.sint (b0 ++ b1 : BitVec 16).toInt) t := by
  refine ⟨readWide_of_bytes h ?_, readWide_of_bytes h ?_⟩ <;>
    simp only [wideValue, natBE_two, BitVec.ofNat_toNat, BitVec.setWidth_eq]

theorem readWide_four {b0 b1 b2 b3 : Byte} (h : readBytes 4 s = .ok [b0, b1, b2, b3] t) :
    readWide .u32 s = .ok (.uint (b0 ++ b1 ++ b2 ++ b3 : BitVec 32).toNat) t ∧
    readWide .s32 s = .ok (.sint (b0 ++ b1 ++ b2 ++ b3 : BitVec 32).toInt) t ∧
    readWide .f32 s = .ok (.f32 (b0 ++ b1 ++ b2 ++ b3)) t := by
  refine ⟨readWide_of_bytes h ?_, readWide_of_bytes h ?_, readWide_of_bytes h ?_⟩ <;>
    simp only [wideValue, natBE_four, BitVec.ofNat_toNat, BitVec.setWidth_eq]

theorem readWide_six {b0 b1 b2 b3 b4 b5 : Byte} (h : readBytes 6 s = .ok [b0, b1, b2, b3, b4, b5] t) :
    readWide .u48 s = .ok (.uint (b0 ++ b1 ++ b2 ++ b3 ++ b4 ++ b5 : BitVec 48).toNat) t :=
  readWide_of_bytes h (by simp only [wideValue, natBE_six])

theorem readWide_eight {b0 b1 b2 b3 b4 b5 b6 b7 : Byte} (h : readBytes 8 s = .ok [b0, b1, b2, b3, b4, b5, b6, b7] t) :
    readWide .u64 s = .ok (.uint (b0 ++ b1 ++ b2 ++ b3 ++ b4 ++ b5 ++ b6 ++ b7 : BitVec 64).toNat) t ∧
    readWide .s64 s = .ok (.sint (b0 ++ b1 ++ b2 ++ b3 ++ b4 ++ b5 ++ b6 ++ b7 : BitVec 64).toInt) t := by
  refine ⟨readWide_of_bytes h ?_, readWide_of_bytes h ?_⟩ <;>
    simp only [wideValue, natBE_eight, BitVec.ofNat_toNat, BitVec.setWidth_eq]

/-- R133: the one little-endian value. -/
theorem readWide_timestamp {b0 b1 b2 b3 b4 b5 b6 b7 : Byte} (h : readBytes 8 s = .ok [b0, b1, b2, b3, b4, b5, b6, b7] t) :
    readWide .timestamp s = .ok (.uint (b7 ++ b6 ++ b5 ++ b4 ++ b3 ++ b2 ++ b1 ++ b0 : BitVec 64).toNat) t := by
  refine readWide_of_bytes h ?_
  rw [wideValue, natLE_eq_natBE_reverse, ← natBE_eight]
  rfl

end

/-- Settles O35: a wide read maps the value of its kind over the byte reads, and that value is the bytes put together most
significant first. -/
theorem scalarReadsAreBigEndian : Obligations.ScalarReadsAreBigEndian := by
  refine fun s t b0 b1 b2 b3 => ⟨⟨rfl, fun n => rfl⟩, fun k e h => ?_, ⟨rfl, rfl, rfl, rfl, rfl, rfl, rfl, rfl⟩, readWide_two,
    readWide_four, fun b4 b5 => readWide_six, fun b4 b5 b6 b7 => readWide_eight⟩
  rw [readWide, h, Ran.map_err]

/-- Settles O36: of the kinds read only the timestamp reverses its bytes, and the bytes written of a pattern put together from bytes
are those bytes in order. -/
theorem onlyTheTimestampIsLittleEndian : Obligations.OnlyTheTimestampIsLittleEndian := by
  refine ⟨fun s t b0 b1 b2 b3 b4 b5 b6 b7 => ⟨fun h => ⟨readWide_timestamp h, readWide_eight h⟩, readWide_six, readWide_four,
    readWide_two⟩, fun s b0 b1 b2 b3 b4 b5 b6 b7 v => ?_⟩
  have two : bytesBE (b0 ++ b1 : BitVec 16).toNat 2 = [b0, b1] := by simp [bytesBE_append_byte, bytesBE_one]
  have four : bytesBE (b0 ++ b1 ++ b2 ++ b3 : BitVec 32).toNat 4 = [b0, b1, b2, b3] := by
    simp [bytesBE_append_byte, bytesBE_one]
  have eight : bytesBE (b0 ++ b1 ++ b2 ++ b3 ++ b4 ++ b5 ++ b6 ++ b7 : BitVec 64).toNat 8 = [b0, b1, b2, b3, b4, b5, b6, b7] := by
    simp [bytesBE_append_byte, bytesBE_one]
  have three : bytesBE (b0 ++ b1 ++ b2 : BitVec 24).toNat 3 = [b0, b1, b2] := by simp [bytesBE_append_byte, bytesBE_one]
  refine ⟨congrArg (writeBytes · s) two, congrArg (writeBytes · s) two, congrArg (writeBytes · s) four,
    congrArg (writeBytes · s) four, congrArg (writeBytes · s) four, congrArg (writeBytes · s) eight,
    congrArg (writeBytes · s) eight, fun hv => ?_⟩
  rw [writeParam, Param.bytes, hv, three]

/-! ## O29: floats and 24-bit integers -/

theorem be32_eq_bytes (v : BitVec 32) :
    v.extractLsb' 24 8 ++ v.extractLsb' 16 8 ++ v.extractLsb' 8 8 ++ v.extractLsb' 0 8 = v := by
  apply BitVec.eq_of_toNat_eq
  simp only [toNat_append_byte, BitVec.extractLsb'_toNat, Nat.shiftRight_eq_div_pow]
  have := v.isLt
  omega

/-- The low 24 bits of an integer are those of its 32-bit pattern. -/
theorem bytesBE_ofInt_24 (v : Int) : bytesBE (BitVec.ofInt 24 v).toNat 3 = (Claims.be32 (BitVec.ofInt 32 v)).tail := by
  have hcut : BitVec.ofInt 24 v = (BitVec.ofInt 32 v).extractLsb' 0 24 := by
    apply BitVec.eq_of_toNat_eq
    simp only [BitVec.toNat_ofInt, BitVec.extractLsb'_toNat, Nat.shiftRight_zero]
    omega
  have hfield {k : Nat} (h : k + 8 ≤ 24) :
      (BitVec.ofInt 24 v).extractLsb' k 8 = (BitVec.ofInt 32 v).extractLsb' k 8 := by
    rw [hcut, extractLsb'_extractLsb' _ h, Nat.zero_add]
  simp (disch := decide) only [bytesBE_toNat_succ, bytesBE_zero, hfield, Claims.be32, List.tail_cons]

/-- Settles O29: a float's bytes are those of its pattern and give it back; a 24-bit write drops the top byte of the pattern. -/
theorem floatAndI24WritesAreBitPatterns : Obligations.FloatAndI24WritesAreBitPatterns := by
  refine fun s => ⟨fun f => congrArg (writeBytes · s) (bytesBE_four f), fun f t h => ?_,
    fun v => congrArg (writeBytes · s) (bytesBE_ofInt_24 v)⟩
  have := (readWide_four h).2.2
  rwa [be32_eq_bytes] at this

/-! ## O32: the time words -/

theorem longMs_bounds {us : Nat} (hlow : 4096 ≤ us) (hhigh : us ≤ 4094000) :
    (us + 1000 ≤ longMs .ceilPlusOne us * 1000 ∧ longMs .ceilPlusOne us * 1000 < us + 2000) ∧
    (us + 1 ≤ longMs .truncPlusOne us * 1000 ∧ longMs .truncPlusOne us * 1000 ≤ us + 1000) := by
  simp only [longMs]
  omega

theorem longMs_rounds (r : Rounding) {us : Nat} (h : us ≤ 4095000) :
    us ≤ longMs r us * 1000 ∧ longMs r us * 1000 < us + 2000 := by
  cases r <;> simp only [longMs] <;> omega

theorem longMs_clamps (r : Rounding) {us : Nat} (h : 4095000 ≤ us) : longMs r us = 4095 := by
  cases r <;> simp only [longMs] <;> omega

/-- Settles O32: a short time is the word's payload; a long one is the milliseconds of R120, which the payload holds whole. -/
theorem timeWordsReadBack : Obligations.TimeWordsReadBack := by
  refine ⟨fun r short long us hne => ⟨fun hshort => ?_, fun hlong => ?_⟩, fun us => longMs_bounds⟩
  · rw [timeWord_short hshort, timeOf_mkWord_short, BitVec.toNat_ofNat, Nat.mod_eq_of_lt (Nat.lt_of_le_of_lt hshort (by decide))]
  · have hfits : longMs r us.toNat % 2 ^ 12 = longMs r us.toNat :=
      Nat.mod_eq_of_lt (Nat.lt_of_le_of_lt (longMs_le r us.toNat) (by decide))
    refine ⟨longMs r us.toNat, ?_, longMs_le r us.toNat, longMs_rounds r, longMs_clamps r⟩
    rw [timeWord_long hlong, timeOf_mkWord_long hne, BitVec.toNat_ofNat, hfits]

/-! ## O27: the CRC as a check -/

/-- While the bits shifted out are clear, an iteration is a shift. -/
theorem crcShifts_of_low_clear (n : Nat) (x : Word) (h : ∀ i < n, x.getLsbD i = false) : crcShifts n x = x >>> n := by
  induction n generalizing x with
  | zero => simp [crcShifts]
  | succ n ih =>
    have hshift : crcShift x = x >>> 1 := by rw [crcShift, h 0 (Nat.succ_pos n), if_neg Bool.false_ne_true]
    have hlow : ∀ i < n, (x >>> 1).getLsbD i = false := fun i hi => by
      rw [BitVec.getLsbD_ushiftRight]; exact h (1 + i) (by omega)
    rw [crcShifts, hshift, ih _ hlow, ← BitVec.shiftRight_add, Nat.add_comm]

/-- The low byte of the accumulator clears its low half; the eight iterations then move the high half down. -/
theorem crcByte_crcLow (c : Word) : crcByte c (crcLow c) = (crcHigh c).setWidth 16 := by
  have hclear : ∀ i < 8, (c ^^^ (crcLow c).setWidth 16).getLsbD i = false := fun i hi => by
    have : i < 16 := by omega
    simp [crcLow, hi, this]
  rw [crcByte, crcShifts_of_low_clear 8 _ hclear]
  ext i hi
  by_cases h8 : i < 8
  · simp [crcLow, crcHigh, h8]
  · have hpast : c.getLsbD (8 + i) = false := BitVec.getLsbD_of_ge _ _ (by omega)
    simp [crcLow, crcHigh, h8, hpast]

theorem crcByte_injective_left (b : Byte) : Function.Injective (crcByte · b) := fun _ _ h =>
  (BitVec.xor_left_inj _).mp (crcShifts_injective 8 h)

theorem crcByte_injective_right (c : Word) : Function.Injective (crcByte c) := fun b b' h => by
  have hwide : (b.setWidth 16 : Word) = b'.setWidth 16 := (BitVec.xor_right_inj c).mp (crcShifts_injective 8 h)
  rw [← setWidth_lowByte_eq b, hwide, setWidth_lowByte_eq]

/-- The same bytes take different accumulators to different ones. -/
theorem crcBytes_injective (bs : List Byte) : Function.Injective (crcBytes · bs) := by
  induction bs with
  | nil => exact fun c c' h => h
  | cons b bs ih => exact fun c c' h => crcByte_injective_left b (ih h)

/-- Settles O27: the low byte leaves the high byte alone in the accumulator, and adding that clears it; every step of the CRC is
injective, in the byte and in the accumulator. -/
theorem crcChecksItselfAndSeesOneWrongByte : Obligations.CrcChecksItselfAndSeesOneWrongByte := by
  refine ⟨fun c => ?_, fun c before after b b' hb h => ?_⟩
  · rw [crcByte_crcLow, crcByte, BitVec.xor_self]
    rfl
  · rw [crcBytes_append, crcBytes_append] at h
    exact hb (crcByte_injective_right _ (crcBytes_injective after h))

/-! ## O45: the fingerprint -/

/-- Settles O45: the record is stored under its own key, whatever it was compared with. -/
theorem fingerprintIsIdempotent : Obligations.FingerprintIsIdempotent := by
  intro a f s t ht
  have hcached (a' f' : Byte) : t.cached a' f' = (s.setCached a f s.record).cached a' f' := congrArg (Table.get · _) ht
  refine ⟨?_, ?_, fun a' f' hne => ?_⟩
  · rw [responseMatchCached_eq, decide_eq_true_iff]
  · rw [responseMatchCached_eq, decide_eq_true_iff, hcached, cached_setCached_same, Option.some.injEq, eq_comm]
  · rw [hcached, cached_setCached_other _ _ hne]

end Sys2Proof.Machine

/-! # The write path

Words appended up to the bound of the buffer: bytes, the CRC, a whole frame with its control words; the request builders are a
frame and at most one push; O30, O33, O42, O43, O44, O48. -/

namespace Sys2Proof.Machine

open Sys2Proof

/-! ## Room -/

theorem room_iff_of_append {s : State} (ws : List Word) (c : Word) (n : Nat) :
    Claims.room { s with buf := s.buf ++ ws, crc := c } n ↔ Claims.room s (ws.length + n) := by
  simp only [Claims.room, List.length_append, Nat.add_assoc]

theorem room_of_le {s : State} {m n : Nat} (h : Claims.room s n) (hmn : m ≤ n) : Claims.room s m :=
  fun k hk => (Nat.add_le_add_left hmn _).trans (h k hk)

theorem not_full_of_room {s : State} {n : Nat} (h : Claims.room s (n + 1)) : s.cfg.bufWords ≠ some s.buf.length := fun hfull => by
  have := h _ hfull
  omega

/-- Within a bound there is room for the words up to it. -/
theorem room_of_bound {s : State} {m n : Nat} (hb : s.cfg.bufWords = some m) (h : s.buf.length + n ≤ m) : Claims.room s n :=
  fun k hk => by cases hb.symm.trans hk; exact h

theorem emit_of_roomFor {w : Word} {s : State} (h : Claims.room s 1) : emit w s = .ok () { s with buf := s.buf ++ [w] } :=
  emit_of_room (not_full_of_room h)

/-! ## O30: bytes and the CRC -/

theorem writeBytes_of_room {bs : List Byte} {s : State} (h : Claims.room s bs.length) :
    writeBytes bs s = .ok () { s with buf := s.buf ++ bs.map s.cfg.encByte, crc := crcBytes s.crc bs } := by
  induction bs generalizing s with
  | nil => simp [writeBytes]
  | cons b bs ih =>
    rw [writeBytes, writeByte_of_room (not_full_of_room h), Ran.andThen_ok,
      ih ((room_iff_of_append [s.cfg.encByte b] _ _).mpr (by rwa [Nat.add_comm]))]
    simp

/-- The byte that meets the bound is in the CRC and not in the buffer. -/
theorem writeBytes_of_bound {bs : List Byte} {s : State} {n : Nat} (hb : s.cfg.bufWords = some n) (hle : s.buf.length ≤ n)
    (hlt : n < s.buf.length + bs.length) :
    writeBytes bs s = .err (.bufferFull n) { s with
      buf := s.buf ++ (bs.take (n - s.buf.length)).map s.cfg.encByte
      crc := crcBytes s.crc (bs.take (n - s.buf.length + 1)) } := by
  obtain ⟨k, rfl⟩ := Nat.exists_eq_add_of_le hle
  have hk : k < bs.length := by omega
  have hfull : (s.buf ++ (bs.take k).map s.cfg.encByte).length = s.buf.length + k := by simp; omega
  have hsplit : bs = bs.take k ++ bs[k] :: bs.drop (k + 1) := by rw [← List.drop_eq_getElem_cons hk, List.take_append_drop]
  rw [Nat.add_sub_cancel_left, List.take_succ_eq_append_getElem hk, crcBytes_append]
  conv_lhs => rw [hsplit]
  rw [writeBytes_append, writeBytes_of_room (room_of_bound hb (by simp)), Ran.andThen_ok, writeBytes,
    writeByte_of_full (by rw [hfull]; exact hb), hfull]
  rfl

theorem writeCrc_of_full {s : State} (h : s.cfg.bufWords = some s.buf.length) :
    writeCrc s = .err (.bufferFull s.buf.length) s := by
  rw [writeCrc, emit_of_full h, Ran.andThen_err]

theorem writeCrc_of_one {s : State} (h : s.cfg.bufWords = some (s.buf.length + 1)) :
    writeCrc s = .err (.bufferFull (s.buf.length + 1)) { s with buf := s.buf ++ [s.cfg.encByte (crcLow s.crc)] } := by
  have hlen : (s.buf ++ [s.cfg.encByte (crcLow s.crc)]).length = s.buf.length + 1 := by simp
  rw [writeCrc, State.crcValue, emit_of_roomFor (room_of_bound h (Nat.le_refl _)), Ran.andThen_ok,
    emit_of_full (by rw [hlen]; exact h), hlen]
  rfl

/-- Settles O30: by induction on the bytes with room; at the bound the bytes that fit have room and the next one meets a full buffer. -/
theorem writtenBytesAppendUpToTheBound : Obligations.WrittenBytesAppendUpToTheBound :=
  fun _ _ => ⟨writeBytes_of_room, fun _ => writeBytes_of_bound, writeCrc_of_room, writeCrc_of_full, writeCrc_of_one⟩

/-! ## O33: control words -/

theorem emit_eq (w : Word) (s : State) : emit w s =
    if s.cfg.bufWords = some s.buf.length then .err (.bufferFull s.buf.length) s else .ok () { s with buf := s.buf ++ [w] } := rfl

/-- Settles O33: each control-word write is one `Emit` of its word. -/
theorem controlWordWritesAppendOneWord : Obligations.ControlWordWritesAppendOneWord := by
  intro s rest o w hops ho
  have hrun : runOp o s.begin = finish (emit w s.begin).noValue := by
    obtain ⟨us, rfl, rfl⟩ | ⟨us, rfl, rfl⟩ | ⟨rfl, rfl⟩ | ⟨rfl, rfl⟩ := ho <;> rfl
  rw [step_cons hops, hrun, emit_eq, State.begin_cfg, State.begin_buf]
  split
  · exact congrArg _ (complete_begin hops _)
  · simp [State.complete, State.begin, hops]

/-! ## A frame and its two control words -/

/-- The words of a frame, TX_FRAMEEND and a closing time word: what both request builders write. -/
def writeFrame (bytes : List Byte) (close : Config → Word) (s : State) : Ran Unit :=
  (writeBytes bytes s).andThen fun _ s => (writeCrc s).andThen fun _ s =>
    (emit s.cfg.txFrameend s).andThen fun _ s => emit (close s.cfg) s

/-- The wait word a request closes with. -/
def waitWord (us : Micros) (c : Config) : Word := timeWord c.longRounding c.waitShortCmd c.waitLongCmd us

/-- The delay word a broadcast closes with. -/
def delayWord (us : Micros) (c : Config) : Word := timeWord c.longRounding 0x4 0x5 us

theorem callFunction_eq (a f : Byte) (us : Micros) (ps : List Param) (s : State) :
    callFunction a f us ps s =
      (writeFrame (a :: f :: ps.flatMap Param.bytes) (waitWord us) s).andThen fun _ t => pushCommanded a f t := by
  simp only [callFunction, writeFrame, writeBytes, writeParams_eq_writeBytes, Ran.andThen_assoc]
  rfl

theorem broadcastFunction_eq (a f c : Byte) (us : Micros) (d : List Byte) (n : Nat) (s : State) :
    broadcastFunction a f c us d n s =
      writeFrame (a :: f :: c :: broadcastData d n s.free) (delayWord us) (s.takeFree (n - d.length)) := by
  simp only [broadcastFunction, writeFrame, writeBytes, Ran.andThen_assoc]
  rfl

section
variable {bytes : List Byte} {close : Config → Word} {s : State}

theorem length_frameWords (c : Config) (crc : Word) (bytes : List Byte) :
    (Claims.frameWords c crc bytes).length = bytes.length + 2 := by
  simp [Claims.frameWords]

theorem frameWords_eq (c : Config) (crc : Word) (bytes : List Byte) :
    Claims.frameWords c crc bytes = bytes.map c.encByte ++
      [c.encByte (crcLow (crcBytes crc bytes)), c.encByte (crcHigh (crcBytes crc bytes))] := by
  simp [Claims.frameWords]

/-- The bytes and the CRC with room for both. -/
theorem writeFrameBytes_of_room (h : Claims.room s (bytes.length + 2)) :
    ((writeBytes bytes s).andThen fun _ s => writeCrc s) =
      .ok () { s with buf := s.buf ++ Claims.frameWords s.cfg s.crc bytes, crc := 0xFFFF } := by
  rw [writeBytes_of_room (room_of_le h (Nat.le_add_right _ _)), Ran.andThen_ok,
    writeCrc_of_room ((room_iff_of_append _ _ _).mpr (by simpa using h)), frameWords_eq]
  simp

theorem writeFrame_eq : writeFrame bytes close s =
    (((writeBytes bytes s).andThen fun _ s => writeCrc s).andThen fun _ s => emit s.cfg.txFrameend s).andThen
      fun _ s => emit (close s.cfg) s := by
  simp only [writeFrame, Ran.andThen_assoc]

theorem writeFrame_of_room (h : Claims.room s (bytes.length + 4)) :
    writeFrame bytes close s = .ok () { s with
      buf := s.buf ++ (Claims.frameWords s.cfg s.crc bytes ++ [s.cfg.txFrameend, close s.cfg]), crc := 0xFFFF } := by
  have hend : Claims.room { s with buf := s.buf ++ Claims.frameWords s.cfg s.crc bytes, crc := 0xFFFF } 2 :=
    (room_iff_of_append _ _ _).mpr (by rwa [length_frameWords])
  have hclose := (room_iff_of_append [s.cfg.txFrameend] 0xFFFF 1).mpr hend
  rw [writeFrame_eq, writeFrameBytes_of_room (room_of_le h (by omega)), Ran.andThen_ok,
    emit_of_roomFor (room_of_le hend (by omega)), Ran.andThen_ok, emit_of_roomFor hclose]
  simp

/-- The accumulator where a frame meets the bound after `k` of its words. -/
def crcAtBound (crc : Word) (bytes : List Byte) (k : Nat) : Word :=
  if k < bytes.length then crcBytes crc (bytes.take (k + 1))
  else if k < bytes.length + 2 then crcBytes crc bytes else 0xFFFF

theorem writeFrame_of_bound {k : Nat} (hb : s.cfg.bufWords = some (s.buf.length + k)) (hk : k < bytes.length + 4) :
    writeFrame bytes close s = .err (.bufferFull (s.buf.length + k)) { s with
      buf := s.buf ++ (Claims.frameWords s.cfg s.crc bytes ++ [s.cfg.txFrameend, close s.cfg]).take k
      crc := crcAtBound s.crc bytes k } := by
  have hlen := length_frameWords s.cfg s.crc bytes
  have hroom {m : Nat} (hm : m ≤ k) : Claims.room s m := room_of_bound hb (Nat.add_le_add_left hm _)
  obtain hlt | rfl | rfl | rfl | rfl : k < bytes.length ∨ k = bytes.length ∨ k = bytes.length + 1 ∨ k = bytes.length + 2 ∨
    k = bytes.length + 3 := by omega
  · rw [writeFrame_eq, writeBytes_of_bound hb (Nat.le_add_right _ _) (by omega), Nat.add_sub_cancel_left, frameWords_eq,
      List.append_assoc, List.take_append_of_le_length (by simp; omega), crcAtBound, if_pos hlt, List.map_take]
    rfl
  · have hfull : (s.buf ++ bytes.map s.cfg.encByte).length = s.buf.length + bytes.length := by simp
    rw [writeFrame_eq, writeBytes_of_room (hroom (Nat.le_refl _)), Ran.andThen_ok,
      writeCrc_of_full (by rw [hfull]; exact hb), hfull, frameWords_eq, List.append_assoc,
      List.take_append_of_le_length (by simp), List.take_of_length_le (by simp), crcAtBound, if_neg (by omega), if_pos (by omega)]
    rfl
  · have hone : (s.buf ++ bytes.map s.cfg.encByte).length + 1 = s.buf.length + (bytes.length + 1) := by simp; omega
    have hwords : (Claims.frameWords s.cfg s.crc bytes ++ [s.cfg.txFrameend, close s.cfg]).take (bytes.length + 1) =
        bytes.map s.cfg.encByte ++ [s.cfg.encByte (crcLow (crcBytes s.crc bytes))] := by
      simp [frameWords_eq, List.take_append]
    rw [writeFrame_eq, writeBytes_of_room (hroom (Nat.le_succ _)), Ran.andThen_ok,
      writeCrc_of_one (by rw [hone]; exact hb), hone, hwords, crcAtBound, if_neg (by omega), if_pos (by omega),
      List.append_assoc]
    rfl
  · have hfull : (s.buf ++ Claims.frameWords s.cfg s.crc bytes).length = s.buf.length + (bytes.length + 2) := by simp [hlen]
    rw [writeFrame_eq, writeFrameBytes_of_room (hroom (Nat.le_refl _)), Ran.andThen_ok,
      emit_of_full (by rw [hfull]; exact hb), hfull, List.take_append_of_le_length (by omega),
      List.take_of_length_le (by omega), crcAtBound, if_neg (by omega), if_neg (by omega)]
    rfl
  · have hfull : (s.buf ++ Claims.frameWords s.cfg s.crc bytes ++ [s.cfg.txFrameend]).length =
        s.buf.length + (bytes.length + 3) := by simp [hlen]
    have hend : Claims.room { s with buf := s.buf ++ Claims.frameWords s.cfg s.crc bytes, crc := 0xFFFF } 1 :=
      (room_iff_of_append _ _ _).mpr (hroom (by omega))
    rw [writeFrame_eq, writeFrameBytes_of_room (hroom (by omega)), Ran.andThen_ok, emit_of_roomFor hend, Ran.andThen_ok,
      emit_of_full (by rw [hfull]; exact hb), hfull, List.take_append, List.take_of_length_le (by omega),
      crcAtBound, if_neg (by omega), if_neg (by omega), hlen]
    simp

end

/-! ## O43: calls -/

theorem requestWords_eq (c : Config) (crc : Word) (bytes : List Byte) (us : Micros) :
    Claims.requestWords c crc bytes us = Claims.frameWords c crc bytes ++ [c.txFrameend, waitWord us c] := rfl

theorem length_requestWords (c : Config) (crc : Word) (bytes : List Byte) (us : Micros) :
    (Claims.requestWords c crc bytes us).length = bytes.length + 4 := by
  simp [requestWords_eq, length_frameWords]

section
variable {s : State} {a f : Byte}

theorem pushCommanded_of_broadcast (h : a ∈ s.cfg.broadcastSet) : pushCommanded a f s = .ok () s := by
  simp [pushCommanded, h]

theorem pushCommanded_of_room (h : a ∉ s.cfg.broadcastSet) (hq : s.cfg.qDepth ≠ some s.cq.length) :
    pushCommanded a f s = .ok () { s with cq := s.cq ++ [(a, f)] } := by
  simp [pushCommanded, h, hq, State.setCq]

theorem pushCommanded_of_full (h : a ∉ s.cfg.broadcastSet) (hq : s.cfg.qDepth = some s.cq.length) :
    pushCommanded a f s = .err (.queueFull a f) s := by
  simp [pushCommanded, h, hq]

theorem pushCommanded_of_queueRoom (h : Claims.queueRoom s a) :
    pushCommanded a f s = .ok () { s with cq := if a ∈ s.cfg.broadcastSet then s.cq else s.cq ++ [(a, f)] } := by
  by_cases hb : a ∈ s.cfg.broadcastSet
  · rw [pushCommanded_of_broadcast hb, if_pos hb]
  · rw [pushCommanded_of_room hb (h.resolve_left hb), if_neg hb]

/-- A call with room in the buffer writes its request; the queue decides the rest. -/
theorem callFunction_of_room {us : Micros} {ps : List Param} (h : Claims.room s ((ps.flatMap Param.bytes).length + 6)) :
    callFunction a f us ps s = pushCommanded a f { s with
      buf := s.buf ++ Claims.requestWords s.cfg s.crc (a :: f :: ps.flatMap Param.bytes) us, crc := 0xFFFF } := by
  rw [callFunction_eq, writeFrame_of_room h, Ran.andThen_ok, requestWords_eq]

theorem callFunction_requested {us : Micros} {ps : List Param} (h : Claims.room s ((ps.flatMap Param.bytes).length + 6))
    (hq : Claims.queueRoom s a) : callFunction a f us ps s = .ok () (Claims.requested a f us (ps.flatMap Param.bytes) s) := by
  rw [callFunction_of_room h]
  exact pushCommanded_of_queueRoom hq

theorem flatMap_bytes_u8 (bs : List Byte) : (bs.map Param.u8).flatMap Param.bytes = bs := by
  simp [List.flatMap_map, Param.bytes, bytesBE_one]

/-- Each named request is the call of its function code, timeout and payload. -/
theorem runRequest_named {r : Request} {us : Micros} {payload : List Byte}
    (h : Claims.namedRequest s.cfg r = some (a, f, us, payload)) :
    ∃ ps, ps.flatMap Param.bytes = payload ∧ runRequest r s = callFunction a f us ps s := by
  cases r with
  | callFunction _ _ _ _ | broadcastFunction _ _ _ _ _ _ | changeIlcMode _ _ => cases h
  | setTempAddress a t =>
    cases h
    exact ⟨[.u8 t], by simp [Param.bytes, bytesBE_one], rfl⟩
  | setOffsetAndSensitivity a ch o g =>
    cases h
    exact ⟨[.u8 ch, .f32 o, .f32 g], by simp [Param.bytes, bytesBE_one, bytesBE_four], rfl⟩
  | serverId _ | serverStatus _ | resetServer _ | reportCalibrationData _ | mezzaninePressure _ | hardpointForceStatus _ =>
    cases h
    exact ⟨[], rfl, rfl⟩

end

/-- Settles O43: a call is its frame and one push; the frame fits or stops at the bound, the push fits or stops at the queue's. -/
theorem callFunctionEmitsTheRequest : Obligations.CallFunctionEmitsTheRequest := by
  refine ⟨fun a f us ps s bytes ws hbytes hws => ?_, fun s rest r a f us payload hops hr hroom hq => ?_,
    rfl, rfl, rfl, rfl, rfl, rfl, rfl, rfl⟩
  · subst hbytes hws
    rw [length_requestWords]
    refine ⟨callFunction_requested, fun hroom hq => ?_, fun n hb hle hlt => ?_⟩
    · obtain ⟨hbc, hfull⟩ : a ∉ s.cfg.broadcastSet ∧ s.cfg.qDepth = some s.cq.length := by
        simpa [Claims.queueRoom] using hq
      rw [callFunction_of_room hroom]
      exact pushCommanded_of_full hbc hfull
    · obtain ⟨k, rfl⟩ := Nat.exists_eq_add_of_le hle
      rw [callFunction_eq, writeFrame_of_bound hb (by omega), Ran.andThen_err, Nat.add_sub_cancel_left]
      rfl
  · obtain ⟨ps, rfl, hrun⟩ := runRequest_named (s := s.begin) hr
    rw [step_cons hops]
    show finish (runRequest r s.begin).noValue = _
    rw [hrun, callFunction_requested (s := s.begin) hroom hq]
    simp [State.complete, Claims.requested, State.begin, hops]

/-! ## O42: broadcasts -/

/-- Settles O42: the push by its three cases; a broadcast is a frame and no push, so it writes the buffer, the CRC and the counter of
free values only. -/
theorem broadcastsAreNeverQueued : Obligations.BroadcastsAreNeverQueued := by
  refine ⟨fun s a f => ⟨pushCommanded_of_broadcast, pushCommanded_of_room, pushCommanded_of_full⟩, fun b => ?_,
    fun s t a f c us d n rest hops ht => ?_, fun s a f c us d n hroom => ?_⟩
  · show b ∈ [0, 148, 149, 250] ↔ _
    simp
  · rw [step_cons hops] at ht
    obtain ⟨r, u, rfl, ⟨⟨ws, c, rfl⟩, -⟩⟩ :=
      finish_leaves ht (Ran.leaves_noValue.mpr (broadcastFunction_wrote a f c us d n s.begin))
    rfl
  · refine ⟨(List.range (n - d.length)).map fun i => Config.freeByte (s.free + i), s.free + (n - d.length), by simp, ?_⟩
    have hlen : (a :: f :: c :: broadcastData d n s.free).length + 4 = n + 7 := by simp [length_broadcastData]
    have hfree : Claims.room (s.takeFree (n - d.length)) ((a :: f :: c :: broadcastData d n s.free).length + 4) := by
      rw [hlen]; exact hroom
    rw [broadcastFunction_eq, writeFrame_of_room hfree, List.append_assoc]
    rfl

/-! ## O44: the assembly -/

theorem assembleFrame_eq (c : Config) (bytes : List Byte) (crc : Word) :
    (asmBytes c crc bytes).1 ++ (asmCrc c (asmBytes c crc bytes).2).1 = Claims.frameWords c crc bytes := by
  rw [frameWords_eq]
  rfl

/-- Settles O44: `FRAME` assembles to the frame's bytes and CRC, `FRAMEEND` and the time line to its two control words. -/
theorem assembledRequestsAreBuiltRequests : Obligations.AssembledRequestsAreBuiltRequests := by
  intro a f c us bs s hunb hq hbuf hcrc
  have hroom (n : Nat) : Claims.room s n := room_of_unbounded hunb n
  refine ⟨⟨_, callFunction_requested (hroom _) (.inr (by simp [hq])), ?_⟩, ?_⟩
  · simp only [Claims.requested, flatMap_bytes_u8, hbuf, hcrc, List.nil_append, requestWords_eq]
    simp [assemble, assembleFrom, assembleLine, frameWords_eq, asmBytes, asmCrc, waitWord]
  · refine ⟨_, by rw [broadcastFunction_eq, writeFrame_of_room (room_of_unbounded (s := s.takeFree _) hunb _)], ?_⟩
    simp only [broadcastData_of_le s.free (Nat.le_refl bs.length), List.take_length]
    simp [assemble, assembleFrom, assembleLine, frameWords_eq, asmBytes, asmCrc, delayWord, hbuf, hcrc]

/-! ## O48: the mode change -/

/-- The mode field of a request, by its width (R195). -/
theorem modeParam_bytes {w : ModeWidth} {m : Byte} {p : Param} {payload : List Byte}
    (h8 : w = .bits8 → p = .u8 m ∧ payload = [m]) (h16 : w = .bits16 → p = .u16 (m.setWidth 16) ∧ payload = [0, m]) :
    modeParam w m = p ∧ p.bytes = payload := by
  cases w with
  | bits8 =>
    obtain ⟨rfl, rfl⟩ := h8 rfl
    exact ⟨rfl, bytesBE_one m⟩
  | bits16 =>
    obtain ⟨rfl, rfl⟩ := h16 rfl
    refine ⟨rfl, ?_⟩
    rw [Param.bytes, bytesBE_two, setWidth_highByte, setWidth_lowByte_eq]

/-- Settles O48: the request is a call of function 65, whose room and effect are any call's. -/
theorem changeModeRequestUsesLastMode : Obligations.ChangeModeRequestUsesLastMode := by
  intro a m s us p payload hus h8 h16
  obtain ⟨hp, hbytes⟩ := modeParam_bytes h8 h16
  have hcall : changeIlcMode a m s = callFunction a 65 us [p] s := by rw [changeIlcMode, hp, hus]; rfl
  have hflat : [p].flatMap Param.bytes = payload := by simp [hbytes]
  refine ⟨hcall, fun hroom hq => ?_⟩
  rw [hcall, callFunction_requested (by rwa [hflat]) hq, hflat]

end Sys2Proof.Machine

/-! # Reading back

Byte reads one after the other, strings within the buffer and past its end, and a written frame read back; O37, O39. -/

namespace Sys2Proof.Machine

open Sys2Proof

/-! ## O37: strings -/

theorem readBytes_add (m n : Nat) (s : State) :
    readBytes (m + n) s = (readBytes m s).andThen fun bs t => (readBytes n t).map (bs ++ ·) := by
  induction m generalizing s with
  | zero =>
    rw [Nat.zero_add]
    show _ = (readBytes n s).map ([] ++ ·)
    cases readBytes n s <;> rfl
  | succ m ih =>
    rw [Nat.succ_add, readBytes, readBytes, Ran.andThen_assoc]
    congr 1
    funext b t
    rw [ih, Ran.map_andThen]
    cases readBytes m t with
    | ok bs u => cases hn : readBytes n u <;> simp [hn]
    | err e u => rfl
    | stop x => rfl

theorem readBytes_of_end {n : Nat} {s : State} (h : s.buf.length ≤ s.cur) :
    readBytes (n + 1) s = .err (.endOfBuffer s.cur) s := by
  rw [readBytes, readByte_of_end (fetch_eq_none.mpr h), Ran.andThen_err]

/-- Settles O37: the bytes left are read; past them the next byte read meets the end. -/
theorem stringReadTakesBytesOrEnds : Obligations.StringReadTakesBytesOrEnds := by
  intro n s bs hbs hcur
  have hlen : bs.length = min n (s.buf.length - s.cur) := by simp [hbs]
  have hahead : bs <+: (s.buf.drop s.cur).map s.cfg.decByte := by
    rw [hbs, List.map_take]; exact List.take_prefix _ _
  have hread := readBytes_of_ahead hahead
  split
  case isTrue hin =>
    have hn : bs.length = n := by omega
    rw [hn] at hread
    rw [readString, hread, Ran.map_ok]
  case isFalse hout =>
    obtain ⟨k, rfl⟩ : ∃ k, n = bs.length + (k + 1) := ⟨n - bs.length - 1, by omega⟩
    have hend : s.cur + bs.length = s.buf.length := by omega
    rw [hend] at hread
    rw [readString, readBytes_add, hread, Ran.andThen_ok, readBytes_of_end (Nat.le_refl _)]
    rfl

/-! ## O39: a written frame -/

/-- What stands at the end of the buffer is ahead of a cursor that stood at the end. -/
theorem decoded_appended {c : Config} (hc : c.byteCodecOk = true) (buf : List Word) (bs : List Byte) :
    (((buf ++ bs.map c.encByte).drop buf.length).map c.decByte) = bs := by
  rw [List.drop_left, map_decByte_map_encByte hc]

/-- Settles O39: the frame's words decode to its bytes and their CRC, so the bytes are read back and the check compares the CRC with
itself. -/
theorem writtenFrameReadsBackAndChecks : Obligations.WrittenFrameReadsBackAndChecks := by
  intro bs s hunb hc hcrc hcur
  let t : State := { s with buf := s.buf ++ Claims.frameWords s.cfg s.crc bs, crc := 0xFFFF }
  have hahead : (bs ++ [crcLow (crcBytes t.crc bs), crcHigh (crcBytes t.crc bs)]) <+:
      (t.buf.drop t.cur).map t.cfg.decByte := by
    show _ <+: ((s.buf ++ Claims.frameWords s.cfg s.crc bs).drop s.cur).map s.cfg.decByte
    rw [hcur, hcrc, Claims.frameWords, decoded_appended hc]
  refine ⟨t, writeFrameBytes_of_room (room_of_unbounded hunb _), t.took bs, t.checked bs,
    readString_of_ahead (ahead_of_append hahead), checkCrc_took hahead, rfl, ?_, rfl⟩
  show s.cur + (bs.length + 2) = (s.buf ++ Claims.frameWords s.cfg s.crc bs).length
  rw [List.length_append, length_frameWords, hcur]

end Sys2Proof.Machine

/-! # Replies

The pairing check, the replies of the nine functions through their default decoders, and the error replies; O14 to O25. -/

namespace Sys2Proof.Machine

open Sys2Proof

/-! ## O23, O24, O25: the pairing check and the frame -/

/-- Settles O23: the head of the queue is popped, then compared with the pair the function byte stands for. -/
theorem unpairedReplyIsUnmatched : Obligations.UnpairedReplyIsUnmatched := by
  intro a f i s hi
  rw [exec_frame hi, frameBody]
  obtain ⟨hnil, h⟩ | ⟨q, hcons, h⟩ | ⟨ea, ef, q, hcons, hne, h⟩ := queueCheck_cases a f (expectedFunction s.cfg f) s
  · rw [h]
    exact ⟨fun _ => rfl, fun ea ef q hq => by cases hnil.symm.trans hq⟩
  · refine ⟨fun hnil => (by cases hnil.symm.trans hcons), fun ea ef q' hq hne => absurd ?_ hne⟩
    cases hq.symm.trans hcons
    rfl
  · rw [h]
    refine ⟨fun hnil => (by cases hnil.symm.trans hcons), fun ea' ef' q' hq _ => ?_⟩
    cases hq.symm.trans hcons
    rfl

/-- Settles O24: the pair is popped, the function is neither code, and the cursor is a free index of the buffer. -/
theorem unknownFunctionStopsDispatch : Obligations.UnknownFunctionStopsDispatch := by
  intro a f s q hn he hq
  exact ⟨min (Config.freeCursor s.free) s.buf.length, s.free + 1, Nat.min_le_right _ _, frameBody_unknown hn he hq⟩

/-- Settles O25: what a frame's body can do, on the completed state. -/
theorem frameInstructionsFrame : Obligations.FrameInstructionsFrame := by
  intro a f i s t hi ht
  rw [exec_frame hi] at ht
  obtain ⟨r, u, rfl, h⟩ := finish_leaves ht (Ran.leaves_noValue.mpr (frameBody_replied a f s))
  refine ⟨h.cfg, fun j => congrArg (Memory.read · j) h.buf, h.bcast, h.registrySealed, h.driver, h.arb, ?_, h.cq, h.events,
    h.modes, h.prints⟩
  rw [State.complete_ops, h.ops]

/-! ## The values of the bytes read -/

@[simp] theorem length_be32 (v : BitVec 32) : (Claims.be32 v).length = 4 := rfl

theorem natBE_be32 (v : BitVec 32) : natBE (Claims.be32 v) = v.toNat := by
  rw [Claims.be32, natBE_four, be32_eq_bytes]

theorem readValue_u8 (b : Byte) : readValue .u8 [b] = .uint b.toNat := by simp [readValue, natBE]

theorem readValue_u16 (b1 b0 : Byte) : readValue (.wide .u16) [b1, b0] = .uint (256 * b1.toNat + b0.toNat) := by
  simp [readValue, wideValue, natBE, Nat.mul_comm]

theorem readValue_s32 (v : BitVec 32) : readValue (.wide .s32) (Claims.be32 v) = .sint v.toInt := by
  simp only [readValue, wideValue, natBE_be32, BitVec.ofNat_toNat, BitVec.setWidth_eq]

theorem readValue_f32 (v : BitVec 32) : readValue (.wide .f32) (Claims.be32 v) = .f32 v := by
  simp only [readValue, wideValue, natBE_be32, BitVec.ofNat_toNat, BitVec.setWidth_eq]

theorem readValue_u48 (u5 u4 u3 u2 u1 u0 : Byte) : readValue (.wide .u48) [u5, u4, u3, u2, u1, u0] =
    .uint (u5.toNat * 2 ^ 40 + u4.toNat * 2 ^ 32 + u3.toNat * 2 ^ 24 + u2.toNat * 2 ^ 16 + u1.toNat * 2 ^ 8 + u0.toNat) := by
  simp only [readValue, wideValue, natBE, List.foldl_cons, List.foldl_nil, Value.uint.injEq]
  omega

/-! ## Decoders -/

/-- The names and values a list of reads binds. -/
def bindings (fs : List Field) : Bound := fs.map fun x => (x.name, readValue x.kind x.bytes)

/-- The reads of a decoder. -/
def reads (fs : List Field) : List DecoderStep := fs.map fun x => .read x.kind x.name

section
variable {a f : Byte} {i : Instr} {s : State} {q : List (Byte × Byte)} {fs : List Field} {ds : List DecoderStep} {bs : List Byte}

/-- A function of the table that is registered and pairs runs its decoder. -/
theorem exec_registered (hi : decodeFrame a f = .ok i) (hr : Claims.registered s.cfg f ds) (hq : s.cq = (a, f) :: q) :
    exec i s = finish (runDecoder f a ds [] (s.setCq q)).noValue := by
  obtain ⟨⟨e, hn, rfl⟩, he⟩ := hr
  rw [exec_frame hi, frameBody_normal hn he hq]

/-- A decoder that reads, checks and emits: its reply is always surfaced. -/
theorem runDecoder_plain (hl : ∀ x ∈ fs, x.bytes.length = readSize x.kind) (hb : fs.flatMap Field.bytes = bs)
    (h : Claims.replyAhead s bs) : runDecoder f a (reads fs ++ [.checkCrc, .emit]) [] s =
      .ok () { s.checked bs with events := s.events ++ [eventOf f a (bindings fs)] } := by
  rw [reads, runDecoder_checked f a fs [.emit] s bs hl hb h]
  rfl

/-- A plain reply of a function of the table, exactly. -/
theorem exec_plain (hi : decodeFrame a f = .ok i) (hr : Claims.registered s.cfg f (reads fs ++ [.checkCrc, .emit]))
    (hq : s.cq = (a, f) :: q) (hl : ∀ x ∈ fs, x.bytes.length = readSize x.kind) (hb : fs.flatMap Field.bytes = bs)
    (h : Claims.replyAhead s bs) {ev : Event} (hev : eventOf f a (bindings fs) = ev) : exec i s = .next { s with
      cur := s.cur + (bs.length + 2), crc := 0xFFFF, recording := false, record := Claims.recorded s bs, cq := q
      events := s.events ++ [ev], result := some (.ok .none), ops := s.ops.tail } := by
  rw [exec_registered hi hr hq, runDecoder_plain (s := s.setCq q) hl hb h, hev]
  rfl

/-- The reads under a record that has just begun. -/
theorem runDecoder_recording (hl : ∀ x ∈ fs, x.bytes.length = readSize x.kind) (hb : fs.flatMap Field.bytes = bs)
    (h : Claims.ahead s bs) : runDecoder f a (.recordChanges :: (reads fs ++ ds)) [] s =
      runDecoder f a ds (bindings fs) ((recordChanges s).took bs) := by
  subst hb
  exact runDecoder_reads f a fs ds [] (recordChanges s) hl h

/-- The reads and the CRC check under a record that has just begun: the record is the payload. -/
theorem runDecoder_recorded (hl : ∀ x ∈ fs, x.bytes.length = readSize x.kind) (hb : fs.flatMap Field.bytes = bs)
    (h : Claims.replyAhead s bs) : runDecoder f a (.recordChanges :: (reads fs ++ .checkCrc :: ds)) [] s =
      runDecoder f a ds (bindings fs) ((recordChanges s).checked bs) :=
  runDecoder_checked f a fs ds (recordChanges s) bs hl hb h

theorem runDecoder_checkCrc {bound : Bound} {t : State} (h : checkCrc s = .ok () t) :
    runDecoder f a (.checkCrc :: ds) bound s = runDecoder f a ds bound t := by
  simp only [runDecoder, decoderStep, h, Ran.map_ok, Ran.andThen_ok]

/-- A decoder whose CRC check fails ends there. -/
theorem runDecoder_checkCrc_err {bound : Bound} {t : State} {e : Err} (h : checkCrc s = .err e t) :
    runDecoder f a (.checkCrc :: ds) bound s = .err e t := by
  simp only [runDecoder, decoderStep, h, Ran.map_err, Ran.andThen_err]

/-- A step that ends well, and the rest. -/
theorem runDecoder_step {d : DecoderStep} {bound bound' : Bound} {t : State} (h : decoderStep f a d bound s = .ok bound' t) :
    runDecoder f a (d :: ds) bound s = runDecoder f a ds bound' t := by
  rw [runDecoder, h, Ran.andThen_ok]

end

/-! ## O14, O15, O16: status and mode -/

/-- The reads of a Server-Status reply (R193). -/
def statusFields (m s1 s0 f1 f0 : Byte) : List Field :=
  [⟨.u8, .mode, [m]⟩, ⟨.wide .u16, .status, [s1, s0]⟩, ⟨.wide .u16, .faults, [f1, f0]⟩]

theorem bindings_statusFields (m s1 s0 f1 f0 : Byte) : bindings (statusFields m s1 s0 f1 f0) =
    [(.mode, .uint m.toNat), (.status, .uint (256 * s1.toNat + s0.toNat)), (.faults, .uint (256 * f1.toNat + f0.toNat))] := by
  simp [bindings, statusFields, readValue_u8, readValue_u16]

theorem statusFields_sized (m s1 s0 f1 f0 : Byte) : ∀ x ∈ statusFields m s1 s0 f1 f0, x.bytes.length = readSize x.kind := by
  simp [statusFields, readSize, wideLength]

/-- A Server-Status reply that pairs runs its decoder, whose reads take the bytes of the payload. -/
theorem exec_serverStatus {a : Byte} {s : State} {q : List (Byte × Byte)} (hr : Claims.registered s.cfg 18 (decoder18 .mode))
    (hq : s.cq = (a, 18) :: q) (m s1 s0 f1 f0 : Byte) : exec (.serverStatus a) s = finish (runDecoder 18 a
      (.recordChanges :: (reads (statusFields m s1 s0 f1 f0) ++ .checkCrc :: [.setMode .mode, .emitIfChanged]))
      [] (s.setCq q)).noValue :=
  exec_registered rfl hr hq

theorem ofInt_natCast_mod (n : Nat) (b : Byte) (h : n % 256 = b.toNat) : BitVec.ofInt 8 (n : Int) = b := by
  apply BitVec.eq_of_toNat_eq
  simp only [BitVec.toNat_ofInt]
  omega

/-- Settles O14: the payload is recorded and checked, then the mode is stored and the record compared. -/
theorem serverStatusReplyDecodes : Obligations.ServerStatusReplyDecodes := by
  intro a m s1 s0 f1 f0 s q hr hq hahead
  have hmode : (Bound.get (bindings (statusFields m s1 s0 f1 f0)) .mode).bind Value.int? = some (m.toNat : Int) := by
    rw [bindings_statusFields]; rfl
  rw [exec_serverStatus hr hq m s1 s0 f1 f0,
    runDecoder_recorded (s := s.setCq q) (statusFields_sized m s1 s0 f1 f0) rfl hahead,
    runDecoder_step (decoderStep_setMode _ hmode), runDecoder_step (decoderStep_emitIfChanged _ _ _ _),
    ofInt_natCast_mod m.toNat m (Nat.mod_eq_of_lt m.isLt), bindings_statusFields]
  rfl

/-- Settles O15: the check fails before the steps that store. -/
theorem serverStatusCrcErrorLeavesTables : Obligations.ServerStatusCrcErrorLeavesTables := by
  intro a m s1 s0 f1 f0 lo hi s q hr hq hahead hne
  have hcrc := (checkCrc_of_ahead (s := (recordChanges (s.setCq q)).took [m, s1, s0, f1, f0])
    (ahead_took (s := recordChanges (s.setCq q)) (cs := [lo, hi]) hahead)).trans (if_neg hne)
  rw [exec_serverStatus hr hq m s1 s0 f1 f0,
    runDecoder_recording (s := s.setCq q) (statusFields_sized m s1 s0 f1 f0) rfl (ahead_of_append (cs := [lo, hi]) hahead)]
  exact congrArg (fun r => finish r.noValue) (runDecoder_checkCrc_err hcrc)

/-- Settles O16: as a status reply, with a mode of two bytes whose low byte is stored. -/
theorem changeModeReplyDecodes : Obligations.ChangeModeReplyDecodes := by
  intro a m1 m0 s q hr hq hahead
  have hrun : exec (.changeMode a) s = finish (runDecoder 65 a (.recordChanges ::
      (reads [⟨.wide .u16, .mode, [m1, m0]⟩] ++ .checkCrc :: [.setMode .mode, .emitIfChanged])) [] (s.setCq q)).noValue :=
    exec_registered rfl hr hq
  have hbind : bindings [⟨.wide .u16, .mode, [m1, m0]⟩] = [(.mode, .uint (256 * m1.toNat + m0.toNat))] := by
    simp [bindings, readValue_u16]
  have hmode : (Bound.get (bindings [⟨.wide .u16, .mode, [m1, m0]⟩]) .mode).bind Value.int? =
      some ((256 * m1.toNat + m0.toNat : Nat) : Int) := by
    rw [hbind]; rfl
  have hlow : BitVec.ofInt 8 ((256 * m1.toNat + m0.toNat : Nat) : Int) = m0 :=
    ofInt_natCast_mod _ m0 (by have := m0.isLt; omega)
  rw [hrun, runDecoder_recorded (s := s.setCq q) (bs := [m1, m0]) (by simp [readSize, wideLength]) rfl hahead,
    runDecoder_step (decoderStep_setMode _ hmode), runDecoder_step (decoderStep_emitIfChanged _ _ _ _), hlow, hbind]
  rfl

/-! ## O18, O19, O20, O21: plain replies -/

theorem recorded_nil (s : State) : Claims.recorded s [] = s.record := by
  cases h : s.recording <;> simp [Claims.recorded, h]

/-- Settles O18: one byte, or none, before the CRC. -/
theorem plainRepliesDecode : Obligations.PlainRepliesDecode := by
  refine fun a b s q => ⟨fun hr hq h => ?_, fun hr hq h => ?_, fun hr hq h => ?_⟩
  · refine exec_plain (fs := [⟨.u8, .newAddress, [b]⟩]) rfl hr hq (by simp [readSize]) rfl h ?_
    simp [bindings, readValue_u8, eventOf]
  · exact recorded_nil s ▸ exec_plain (i := .resetServer a) (fs := []) rfl hr hq nofun rfl h rfl
  · exact recorded_nil s ▸ exec_plain (i := .setOffsetAndSensitivity a) (fs := []) rfl hr hq nofun rfl h rfl

/-- Settles O19: a byte and two 32-bit patterns. -/
theorem hardpointReplyDecodes : Obligations.HardpointReplyDecodes := by
  intro a st enc force s q hr hq h
  refine exec_plain (fs := [⟨.u8, .status, [st]⟩, ⟨.wide .s32, .encoderPosition, Claims.be32 enc⟩,
    ⟨.wide .f32, .loadCellForce, Claims.be32 force⟩]) rfl hr hq (by simp [readSize, wideLength]) (by simp) h ?_
  simp [bindings, readValue_u8, readValue_s32, readValue_f32, eventOf]

/-- Settles O20: four patterns are bound in wire order and delivered in the callback's. -/
theorem mezzaninePressureReorders : Obligations.MezzaninePressureReorders := by
  intro a push1 pull1 pull2 push2 s q hr hq h
  refine exec_plain (fs := [⟨.wide .f32, .primaryPush, Claims.be32 push1⟩, ⟨.wide .f32, .primaryPull, Claims.be32 pull1⟩,
      ⟨.wide .f32, .secondaryPull, Claims.be32 pull2⟩, ⟨.wide .f32, .secondaryPush, Claims.be32 push2⟩])
    rfl hr hq (by simp [readSize, wideLength]) (by simp) h ?_
  simp only [bindings, List.map_cons, List.map_nil, readValue_f32]
  rfl

/-- The reads of one calibration group. -/
def groupFields (g : CalGroup → Fin 4 → BitVec 32) (k : CalGroup) : List Field :=
  [0, 1, 2, 3].map fun i => ⟨.wide .f32, .cal k i, Claims.be32 (g k i)⟩

/-- The reads of a calibration report, group by group (R198). -/
def calibrationFields (g : CalGroup → Fin 4 → BitVec 32) : List Field :=
  [CalGroup.mainADCK, .mainOffset, .mainSensitivity, .backupADCK, .backupOffset, .backupSensitivity].flatMap (groupFields g)

theorem mem_calibrationFields {g : CalGroup → Fin 4 → BitVec 32} {x : Field} :
    x ∈ calibrationFields g ↔ ∃ k i, x = ⟨.wide .f32, .cal k i, Claims.be32 (g k i)⟩ := by
  have hgroup (k : CalGroup) : k ∈ [CalGroup.mainADCK, .mainOffset, .mainSensitivity, .backupADCK, .backupOffset,
      .backupSensitivity] := by cases k <;> decide
  have hindex : ∀ i : Fin 4, i ∈ ([0, 1, 2, 3] : List (Fin 4)) := by decide
  constructor
  · intro h
    obtain ⟨k, -, h⟩ := List.mem_flatMap.mp h
    obtain ⟨i, -, rfl⟩ := List.mem_map.mp h
    exact ⟨k, i, rfl⟩
  · rintro ⟨k, i, rfl⟩
    exact List.mem_flatMap.mpr ⟨k, hgroup k, List.mem_map.mpr ⟨i, hindex i, rfl⟩⟩

/-- A name that is bound to one value has it. -/
theorem bound_get_of_unique {bound : Bound} {n : FieldName} {v : Value} (hmem : (n, v) ∈ bound)
    (huniq : ∀ p ∈ bound, p.1 = n → p.2 = v) : Bound.get bound n = some v := by
  unfold Bound.get
  cases h : bound.reverse.find? (fun p => p.1 = n) with
  | none => exact absurd (List.find?_eq_none.mp h (n, v) (List.mem_reverse.mpr hmem)) (by simp)
  | some p =>
    have hp : p ∈ bound := List.mem_reverse.mp (List.mem_of_find?_eq_some h)
    have hn : p.1 = n := by simpa using List.find?_some h
    simp [huniq p hp hn]

theorem boundF32_calibration (g : CalGroup → Fin 4 → BitVec 32) (k : CalGroup) (i : Fin 4) :
    boundF32 (bindings (calibrationFields g)) (.cal k i) = some (g k i) := by
  have hget : Bound.get (bindings (calibrationFields g)) (.cal k i) = some (.f32 (g k i)) := by
    refine bound_get_of_unique ?_ fun p hp hn => ?_
    · exact List.mem_map.mpr ⟨_, mem_calibrationFields.mpr ⟨k, i, rfl⟩, by rw [readValue_f32]⟩
    · obtain ⟨x, hx, rfl⟩ := List.mem_map.mp hp
      obtain ⟨k', i', rfl⟩ := mem_calibrationFields.mp hx
      cases hn
      exact readValue_f32 _
  rw [boundF32, hget]

/-- Settles O21: twenty-four patterns are bound group by group and delivered group by group. -/
theorem calibrationReportIsGroupMajor : Obligations.CalibrationReportIsGroupMajor := by
  intro a g s q hr hq h
  have hl : ∀ x ∈ calibrationFields g, x.bytes.length = readSize x.kind := by
    intro x hx
    obtain ⟨k, i, rfl⟩ := mem_calibrationFields.mp hx
    rfl
  have hev : eventOf 110 a (bindings (calibrationFields g)) = .calibrationData a (Claims.group g .mainADCK)
      (Claims.group g .mainOffset) (Claims.group g .mainSensitivity) (Claims.group g .backupADCK)
      (Claims.group g .backupOffset) (Claims.group g .backupSensitivity) := by
    simp [eventOf, calibrationEvent, boundGroup, boundF32_calibration, Claims.group]
  have hb : (calibrationFields g).flatMap Field.bytes = Claims.calibrationBytes g := by
    simp only [calibrationFields, groupFields, List.flatMap_assoc, List.flatMap_map, Claims.calibrationBytes]
  exact exec_plain (fs := calibrationFields g) rfl hr hq hl hb h hev

/-! ## O17: the server's identification -/

/-- The fixed reads of a Server-ID reply (R193). -/
def identityFields (l u5 u4 u3 u2 u1 u0 t n so no ma mi : Byte) : List Field :=
  [⟨.u8, .length, [l]⟩, ⟨.wide .u48, .uniqueId, [u5, u4, u3, u2, u1, u0]⟩, ⟨.u8, .ilcAppType, [t]⟩,
   ⟨.u8, .networkNodeType, [n]⟩, ⟨.u8, .ilcSelectedOptions, [so]⟩, ⟨.u8, .networkNodeOptions, [no]⟩,
   ⟨.u8, .majorRev, [ma]⟩, ⟨.u8, .minorRev, [mi]⟩]

/-- A string whose length is a bound number less a constant: the bytes ahead, or an error at the cursor. -/
theorem decoderStep_readString {f a : Byte} {v n : FieldName} {k x : Nat} {bound : Bound} {s : State} {bs : List Byte}
    (hv : Bound.get bound v = some (.uint x)) (hx : x = bs.length + k) (h : Claims.ahead s bs) :
    decoderStep f a (.readString (.minus v k) n) bound s = .ok (bound ++ [(n, .bytes bs)]) (s.took bs) := by
  have hlen : ((x : Int) - k) = (bs.length : Int) := by omega
  simp only [decoderStep, stringLength, boundNumber, hv, Value.int?, Ran.map_ok, Ran.andThen_ok, hlen]
  rw [if_neg (by omega), Int.toNat_natCast, readString_of_ahead h, Ran.map_ok]

theorem decoderStep_readString_negative {f a : Byte} {v n : FieldName} {k x : Nat} {bound : Bound} {s : State}
    (hv : Bound.get bound v = some (.uint x)) (hx : x < k) :
    decoderStep f a (.readString (.minus v k) n) bound s = .err (.endOfBuffer s.cur) s := by
  simp only [decoderStep, stringLength, boundNumber, hv, Value.int?, Ran.map_ok, Ran.andThen_ok]
  rw [if_pos (by omega), raise_eq]

/-- What follows the fixed reads of a Server-ID reply (R193). -/
def identityTail : List DecoderStep := [.readString (.minus .length 12) .firmwareName, .checkCrc, .emitIfChanged]

/-- The fixed reads, a name of the length they leave and the CRC check, under a record that has just begun. -/
theorem runDecoder_identity {a : Byte} {s : State} {fs : List Field} {head name : List Byte} {x : Nat}
    (hl : ∀ x ∈ fs, x.bytes.length = readSize x.kind) (hb : fs.flatMap Field.bytes = head)
    (hv : Bound.get (bindings fs) .length = some (.uint x)) (hx : x = name.length + 12)
    (h : Claims.replyAhead s (head ++ name)) :
    runDecoder 17 a (.recordChanges :: (reads fs ++ identityTail)) [] s =
      runDecoder 17 a [.emitIfChanged] (bindings fs ++ [(.firmwareName, .bytes name)])
        ((recordChanges s).checked (head ++ name)) := by
  have hall : Claims.ahead (recordChanges s) (head ++ name) := ahead_of_append h
  have hcrc := checkCrc_took (s := recordChanges s) h
  rw [← State.took_took] at hcrc
  rw [runDecoder_recording (s := s) hl hb (ahead_of_append hall), identityTail,
    runDecoder_step (decoderStep_readString hv hx (ahead_took hall)), runDecoder_checkCrc hcrc]

/-- Settles O17: the fixed bytes are read and bound, then as many bytes of the name as the length byte leaves. -/
theorem serverIdReplyDecodes : Obligations.ServerIdReplyDecodes := by
  intro a l u5 u4 u3 u2 u1 u0 t n so no ma mi s q head hhead hr hq
  have hbind : bindings (identityFields l u5 u4 u3 u2 u1 u0 t n so no ma mi) = [(.length, .uint l.toNat),
      (.uniqueId, .uint (u5.toNat * 2 ^ 40 + u4.toNat * 2 ^ 32 + u3.toNat * 2 ^ 24 + u2.toNat * 2 ^ 16 +
        u1.toNat * 2 ^ 8 + u0.toNat)),
      (.ilcAppType, .uint t.toNat), (.networkNodeType, .uint n.toNat), (.ilcSelectedOptions, .uint so.toNat),
      (.networkNodeOptions, .uint no.toNat), (.majorRev, .uint ma.toNat), (.minorRev, .uint mi.toNat)] := by
    simp only [bindings, identityFields, List.map_cons, List.map_nil, readValue_u8, readValue_u48]
  have hl : ∀ x ∈ identityFields l u5 u4 u3 u2 u1 u0 t n so no ma mi, x.bytes.length = readSize x.kind := by
    simp [identityFields, readSize, wideLength]
  have hb : (identityFields l u5 u4 u3 u2 u1 u0 t n so no ma mi).flatMap Field.bytes = head := hhead.symm
  have hlength : Bound.get (bindings (identityFields l u5 u4 u3 u2 u1 u0 t n so no ma mi)) .length = some (.uint l.toNat) := by
    rw [hbind]; rfl
  have hrun : exec (.serverId a) s = finish (runDecoder 17 a
      (.recordChanges :: (reads (identityFields l u5 u4 u3 u2 u1 u0 t n so no ma mi) ++ identityTail)) [] (s.setCq q)).noValue :=
    exec_registered rfl hr hq
  refine ⟨fun name h12 hname hreply => ?_, fun h12 hahead => ?_⟩
  · have hlen : (head ++ name).length + 2 = 15 + name.length := by subst hhead; simp; omega
    rw [hrun, runDecoder_identity (s := s.setCq q) hl hb hlength (by omega) hreply,
      runDecoder_step (decoderStep_emitIfChanged _ _ _ _), hbind]
    simp only [State.checked, hlen]
    rfl
  · rw [hrun, runDecoder_recording (s := s.setCq q) hl hb hahead, identityTail, runDecoder,
      decoderStep_readString_negative hlength h12]
    subst hhead
    rfl

/-! ## O22: error replies -/

theorem readByte_of_ahead {s : State} {b : Byte} (h : Claims.ahead s [b]) : readByte true s = .ok b (s.took [b]) := by
  obtain ⟨w, hw, rfl, -⟩ := fetch_of_ahead h
  rw [readByte_of_word hw, Bool.and_true]
  simp [State.took, Bool.cond_eq_ite]

/-- An exception byte with its CRC reaches the handler or raises. -/
theorem errorReply_of_ahead {e : Entry} {a f code : Byte} {s : State} (h : Claims.replyAhead s [code]) :
    errorReply e a f s = match e.handler with
      | some n => .ok () ((s.checked [code]).deliver (.errorReply n a code))
      | none => .err (.exception a f code) (s.checked [code]) := by
  rw [errorReply, readByte_of_ahead (ahead_of_append h), Ran.andThen_ok, checkCrc_took h]
  rfl

theorem decodeFrame_errorReplies {a f n : Byte} {i : Instr} (h : (i, f, n) ∈ Claims.errorReplies a) :
    decodeFrame a f = .ok i := by
  simp only [Claims.errorReplies, List.mem_cons, Prod.mk.injEq, List.not_mem_nil, or_false] at h
  rcases h with ⟨rfl, rfl, -⟩ | ⟨rfl, rfl, -⟩ | ⟨rfl, rfl, -⟩ | ⟨rfl, rfl, -⟩ | ⟨rfl, rfl, -⟩ | ⟨rfl, rfl, -⟩ | ⟨rfl, rfl, -⟩ |
    ⟨rfl, rfl, -⟩ | ⟨rfl, rfl, -⟩ <;> rfl

/-- Settles O22: the error path on a payload of one byte, with a handler and without. -/
theorem errorRepliesReachHandlerOrRaise : Obligations.ErrorRepliesReachHandlerOrRaise := by
  intro a code i f n e s q hmem he hen hn hq hreply
  rw [exec_frame (decodeFrame_errorReplies hmem), frameBody_error hn he hen hq, errorReply_of_ahead (s := s.setCq q) hreply]
  cases e.handler with
  | some h => rfl
  | none => simp [State.complete, State.checked, State.setCq, Claims.recorded]

end Sys2Proof.Machine

/-! # The dispatch loop

The loop without its fuel; a chunk of replies that match the queue, each answered by its decoder; O40, O41. -/

namespace Sys2Proof.Machine

open Sys2Proof

/-! ## O40: the loop -/

theorem frameIteration_buf {s t : State} (h : frameIteration s = .ok () t) : t.buf = s.buf := by
  have := frameIteration_dispatched s
  rw [h] at this
  exact this.buf

/-- Fuel for every word left is enough: each iteration consumes a word. -/
theorem dispatchLoop_of_fuel {m n : Nat} {s : State} (hm : s.buf.length - s.cur ≤ m) (hn : s.buf.length - s.cur ≤ n) :
    dispatchLoop m s = dispatchLoop n s := by
  induction m generalizing n s with
  | zero =>
    have hend : s.endOfBuffer = true := endOfBuffer_iff.mpr (by omega)
    cases n with
    | zero => rfl
    | succ n => rw [dispatchLoop, dispatchLoop, if_pos hend]
  | succ m ih =>
    cases hend : s.endOfBuffer with
    | true => cases n <;> simp [dispatchLoop, hend]
    | false =>
      have hleft : s.cur < s.buf.length := by
        by_contra hc
        exact Bool.false_ne_true (hend.symm.trans (endOfBuffer_iff.mpr (Nat.le_of_not_lt hc)))
      obtain ⟨k, rfl⟩ : ∃ k, n = k + 1 := ⟨n - 1, by omega⟩
      rw [dispatchLoop, dispatchLoop, hend]
      cases hit : frameIteration s with
      | ok u t =>
        have hcur := frameIteration_consumes hend hit
        have hbuf := frameIteration_buf hit
        exact ih (by rw [hbuf]; omega) (by rw [hbuf]; omega)
      | err e t => rfl
      | stop x => rfl

theorem dispatchAll_of_end {s : State} (h : s.endOfBuffer = true) : dispatchAll s = .ok () s := by
  have : s.buf.length - s.cur = 0 := Nat.sub_eq_zero_of_le (endOfBuffer_iff.mp h)
  rw [dispatchAll, this, dispatchLoop]

/-- Settles O40: one unfolding of the loop, and the fuel left is enough for the state the iteration leaves. -/
theorem dispatchLoopUnrolls : Obligations.DispatchLoopUnrolls := by
  intro s
  split
  case isTrue hend => exact dispatchAll_of_end hend
  case isFalse hend =>
    have hleft : s.cur < s.buf.length := by
      by_contra hc
      exact hend (endOfBuffer_iff.mpr (Nat.le_of_not_lt hc))
    obtain ⟨k, hk⟩ : ∃ k, s.buf.length - s.cur = k + 1 := ⟨s.buf.length - s.cur - 1, by omega⟩
    rw [dispatchAll, hk, dispatchLoop, if_neg hend]
    cases hit : frameIteration s with
    | ok u t =>
      have hcur := frameIteration_consumes (by simpa using hend) hit
      have hbuf := frameIteration_buf hit
      exact dispatchLoop_of_fuel (by rw [hbuf]; omega) (Nat.le_refl _)
    | err e t => rfl
    | stop x => rfl

/-! ## Replies a decoder answers -/

/-- A reply as a pair and its payload. -/
abbrev Reply := Byte × Byte × List Byte

/-- The bytes of a reply's frame. -/
def replyBytes (r : Reply) : List Byte :=
  (r.1 :: r.2.1 :: r.2.2) ++ [crcLow (crcBytes 0xFFFF (r.1 :: r.2.1 :: r.2.2)), crcHigh (crcBytes 0xFFFF (r.1 :: r.2.1 :: r.2.2))]

/-- The decoder takes the reply's payload and CRC wherever they stand, and delivers events of `E`. -/
def Answers (E : List Event → Prop) (ds : List DecoderStep) (r : Reply) : Prop :=
  ∀ s, Claims.replyAhead s r.2.2 → ∃ t ev, runDecoder r.2.1 r.1 ds [] s = .ok () t ∧
    t.cur = s.cur + (r.2.2.length + 2) ∧ t.crc = 0xFFFF ∧ t.events = s.events ++ ev ∧ E ev

/-- The state one answered reply leaves. -/
structure Answered (ev : List Event) (n : Nat) (q : List (Byte × Byte)) (s t : State) : Prop where
  cfg : t.cfg = s.cfg
  buf : t.buf = s.buf
  cq : t.cq = q
  crc : t.crc = 0xFFFF
  cur : t.cur = s.cur + n
  events : t.events = s.events ++ ev

/-- The header of a frame whose bytes are ahead. -/
theorem frameHead_of_ahead {a f : Byte} {bs : List Byte} {s : State} (hp : s.cfg.rxDelimiterPolicy = .keep)
    (h : Claims.ahead s (a :: f :: bs)) :
    frameHead s = .ok (some (a, f)) { s with cur := s.cur + 2, crc := crcBytes s.crc [a, f] } ∧
    Claims.ahead { s with cur := s.cur + 2, crc := crcBytes s.crc [a, f] } bs := by
  obtain ⟨wa, hwa, rfl, h1⟩ := fetch_of_ahead h
  obtain ⟨wf, hwf, rfl, h2⟩ := fetch_of_ahead (b := f) (bs := bs) (s := { s with cur := s.cur + 1 }) h1
  exact ⟨by rw [frameHead_of_header hwa (.inl hp), readHeader_of_words hwa hwf]; rfl, h2⟩

/-- One iteration on a reply that matches the head of the queue. -/
theorem frameIteration_answered {E : List Event → Prop} {ds : List DecoderStep} {r : Reply} {q : List (Byte × Byte)} {s : State}
    (hp : s.cfg.rxDelimiterPolicy = .keep) (hr : Claims.registered s.cfg r.2.1 ds) (ha : Answers E ds r)
    (hcrc : s.crc = 0xFFFF) (hq : s.cq = (r.1, r.2.1) :: q) (h : Claims.ahead s (replyBytes r)) :
    ∃ t ev, frameIteration s = .ok () t ∧ E ev ∧ Answered ev (replyBytes r).length q s t := by
  obtain ⟨a, f, p⟩ := r
  obtain ⟨hhead, hrest⟩ := frameHead_of_ahead hp h
  obtain ⟨⟨e, hn, rfl⟩, he⟩ := hr
  let u : State := { s with cur := s.cur + 2, crc := crcBytes s.crc [a, f], cq := q }
  have hahead : Claims.replyAhead u p := by
    show Claims.ahead u (p ++ [crcLow (crcBytes (crcBytes s.crc [a, f]) p), crcHigh (crcBytes (crcBytes s.crc [a, f]) p)])
    rw [hcrc]
    exact hrest
  obtain ⟨t, ev, hrun, hcur, htcrc, hev, hE⟩ := ha u hahead
  have hdec := runDecoder_decoded f a e.decoder [] u
  rw [hrun] at hdec
  refine ⟨t, ev, ?_, hE, hdec.cfg, hdec.buf, hdec.cq, htcrc, ?_, hev⟩
  · rw [frameIteration, hhead]
    exact (frameBody_normal (s := { s with cur := s.cur + 2, crc := crcBytes s.crc [a, f] }) hn he hq).trans hrun
  · rw [hcur]
    show s.cur + 2 + (p.length + 2) = s.cur + (replyBytes (a, f, p)).length
    simp [replyBytes]
    omega

/-- The dispatch of a chunk of replies that match the queue in order. -/
theorem dispatchAll_answered {E : Reply → List Event → Prop} (rs : List Reply) (s : State)
    (hp : s.cfg.rxDelimiterPolicy = .keep)
    (hr : ∀ r ∈ rs, ∃ ds, Claims.registered s.cfg r.2.1 ds ∧ Answers (E r) ds r) (hcrc : s.crc = 0xFFFF)
    (hq : s.cq = rs.map fun r => (r.1, r.2.1)) (h : (s.buf.drop s.cur).map s.cfg.decByte = rs.flatMap replyBytes) :
    ∃ t evs, dispatchAll s = .ok () t ∧ List.Forall₂ E rs evs ∧ t.cfg = s.cfg ∧ t.buf = s.buf ∧ t.cq = [] ∧
      t.crc = 0xFFFF ∧ t.buf.length ≤ t.cur ∧ t.events = s.events ++ evs.flatten := by
  induction rs generalizing s with
  | nil =>
    have hend : s.buf.length ≤ s.cur := by simpa using h
    exact ⟨s, [], dispatchAll_of_end (endOfBuffer_iff.mpr hend), .nil, rfl, rfl, hq, hcrc, hend, by simp⟩
  | cons r rs ih =>
    obtain ⟨ds, hreg, hans⟩ := hr r (by simp)
    have hahead : Claims.ahead s (replyBytes r) := ⟨rs.flatMap replyBytes, h.symm⟩
    obtain ⟨t, ev, hit, hE, ht⟩ := frameIteration_answered hp hreg hans hcrc hq hahead
    have hrest : (t.buf.drop t.cur).map t.cfg.decByte = rs.flatMap replyBytes := by
      rw [ht.buf, ht.cfg, ht.cur, ← List.drop_drop, List.map_drop, h, List.flatMap_cons, List.drop_left]
    obtain ⟨v, evs, hrun, hEs, hcfg, hbuf, hcq, hvcrc, hend, hevs⟩ := ih t (by rw [ht.cfg]; exact hp)
      (fun x hx => by rw [ht.cfg]; exact hr x (by simp [hx])) ht.crc ht.cq hrest
    refine ⟨v, ev :: evs, ?_, .cons hE hEs, hcfg.trans ht.cfg, hbuf.trans ht.buf, hcq, hvcrc, hend, ?_⟩
    · have hne : s.endOfBuffer = false := by
        obtain ⟨w, hw, -⟩ := fetch_of_ahead (b := r.1) (bs := (replyBytes r).tail) hahead
        exact endOfBuffer_of_word hw
      rw [dispatchLoopUnrolls s, if_neg (by simp [hne]), hit]
      exact hrun
    · rw [hevs, ht.events, List.flatten_cons, List.append_assoc]

/-- `process_response` of a chunk that is seated and dispatched, without hooks. -/
theorem processResponse_dispatched {ws : List Word} {s t : State} (hpre : s.cfg.preProcess = none)
    (hpost : s.cfg.postProcess = none) (hwf : Memory.wf s.cfg.bufWords ws = true)
    (hrun : dispatchAll { s with buf := ws, cur := 0, crc := 0xFFFF, registrySealed := true } = .ok () t)
    (hcfg : t.cfg = s.cfg) : processResponse ws ws.length s = .ok () t := by
  have hseat : seat ws (s.setRegistrySealed true) = .ok () { s with
      buf := ws, cur := 0, crc := 0xFFFF, registrySealed := true } := by
    rw [seat_eq, if_pos (by exact hwf)]; rfl
  rw [processResponse, if_neg (Nat.lt_irrefl _), hpre, runHook, List.take_length, hseat, Ran.andThen_ok, hrun, Ran.andThen_ok,
    hcfg, hpost, runHook]

/-- A chunk of replies that match the queue is processed to its end and empties the queue. -/
theorem processResponse_answered {E : Reply → List Event → Prop} {rs : List Reply} {s : State} {ws : List Word}
    (hws : ws = rs.flatMap fun r => Claims.frameWords s.cfg 0xFFFF (r.1 :: r.2.1 :: r.2.2))
    (hwf : Memory.wf s.cfg.bufWords ws = true) (hc : s.cfg.byteCodecOk = true) (hp : s.cfg.rxDelimiterPolicy = .keep)
    (hpre : s.cfg.preProcess = none) (hpost : s.cfg.postProcess = none)
    (hr : ∀ r ∈ rs, ∃ ds, Claims.registered s.cfg r.2.1 ds ∧ Answers (E r) ds r)
    (hq : s.cq = rs.map fun r => (r.1, r.2.1)) :
    ∃ t evs, processResponse ws ws.length s = .ok () t ∧ t.buf = ws ∧ t.cq = [] ∧ t.crc = 0xFFFF ∧
      t.cur = t.buf.length ∧ List.Forall₂ E rs evs ∧ t.events = s.events ++ evs.flatten ∧ checkCommandedEmpty t = .ok () t := by
  let u : State := { s with buf := ws, cur := 0, crc := 0xFFFF, registrySealed := true }
  have hbytes : (u.buf.drop u.cur).map u.cfg.decByte = rs.flatMap replyBytes := by
    show ws.map s.cfg.decByte = _
    rw [hws, List.map_flatMap]
    congr 1
    funext r
    exact map_decByte_map_encByte hc (replyBytes r)
  obtain ⟨t, evs, hrun, hE, hcfg, hbuf, hcq, hcrc, hend, hev⟩ := dispatchAll_answered rs u hp hr rfl hq hbytes
  have hwithin : t.cur ≤ t.buf.length := by
    have := dispatchLoop_dispatched (u.buf.length - u.cur) u
    rw [show dispatchLoop _ u = .ok () t from hrun] at this
    exact this.within (Nat.zero_le _)
  refine ⟨t, evs, processResponse_dispatched hpre hpost hwf hrun hcfg, hbuf, hcq, hcrc,
    Nat.le_antisymm hwithin hend, hE, hev, ?_⟩
  rw [checkCommandedEmpty, if_pos hcq]

/-! ## The default decoders answer -/

/-- A payload of the right length splits into the bytes of a list of reads. -/
theorem exists_fields (ks : List (ReadKind × FieldName)) (p : List Byte) (h : p.length = (ks.map fun k => readSize k.1).sum) :
    ∃ fs : List Field, fs.map (fun x => (x.kind, x.name)) = ks ∧ (∀ x ∈ fs, x.bytes.length = readSize x.kind) ∧
      fs.flatMap Field.bytes = p := by
  induction ks generalizing p with
  | nil => exact ⟨[], rfl, nofun, (List.length_eq_zero_iff.mp (by simpa using h)).symm⟩
  | cons k ks ih =>
    rw [List.map_cons, List.sum_cons] at h
    obtain ⟨fs, hks, hl, hb⟩ := ih (p.drop (readSize k.1)) (by simp; omega)
    refine ⟨⟨k.1, k.2, p.take (readSize k.1)⟩ :: fs, by simp [hks], ?_, by simp [hb]⟩
    intro x hx
    obtain rfl | hx := List.mem_cons.mp hx
    · simp; omega
    · exact hl x hx

/-- The reads of kinds and names. -/
def readsOf (ks : List (ReadKind × FieldName)) : List DecoderStep := ks.map fun k => .read k.1 k.2

theorem reads_eq_readsOf {fs : List Field} {ks : List (ReadKind × FieldName)} (h : fs.map (fun x => (x.kind, x.name)) = ks) :
    reads fs = readsOf ks := by
  subst h
  simp [reads, readsOf]

theorem bound_get_of_mem {bound : Bound} {n : FieldName} (h : n ∈ bound.map Prod.fst) : ∃ v, Bound.get bound n = some v := by
  obtain ⟨p, hp, rfl⟩ := List.mem_map.mp h
  unfold Bound.get
  cases hf : bound.reverse.find? (fun x => x.1 = p.1) with
  | none => exact absurd (List.find?_eq_none.mp hf p (List.mem_reverse.mpr hp)) (by simp)
  | some x => exact ⟨x.2, rfl⟩

/-- A step after the CRC check: it delivers or stores, and has what it needs. -/
def Stores (bound : Bound) (d : DecoderStep) : Prop :=
  d = .emit ∨ d = .emitIfChanged ∨ ∃ n, d = .setMode n ∧ n ∈ bound.map Prod.fst

theorem decoderStep_stores {f a : Byte} {d : DecoderStep} {bound : Bound} (h : Stores bound d) (s : State) :
    ∃ t, decoderStep f a d bound s = .ok bound t ∧ t.cur = s.cur ∧ t.crc = s.crc := by
  obtain rfl | rfl | ⟨n, rfl, hn⟩ := h
  · exact ⟨_, rfl, rfl, rfl⟩
  · exact ⟨_, decoderStep_emitIfChanged f a bound s, rfl, rfl⟩
  · obtain ⟨v, hv⟩ := bound_get_of_mem hn
    obtain ⟨hnone, -⟩ | ⟨_, x, -, -, h⟩ | ⟨_, -, -, h⟩ := boundNumber_cases bound n s
    · cases hnone.symm.trans hv
    · exact ⟨s.setModeOf a (BitVec.ofInt 8 x), by rw [decoderStep, h]; rfl, rfl, rfl⟩
    · exact ⟨(s.takeFree 1).setModeOf a (BitVec.ofInt 8 (Config.freeNumber s.free)), by rw [decoderStep, h]; rfl, rfl, rfl⟩

theorem runDecoder_stores {f a : Byte} {ds : List DecoderStep} {bound : Bound} (h : ∀ d ∈ ds, Stores bound d) (s : State) :
    ∃ t, runDecoder f a ds bound s = .ok () t ∧ t.cur = s.cur ∧ t.crc = s.crc := by
  induction ds generalizing s with
  | nil => exact ⟨s, rfl, rfl, rfl⟩
  | cons d ds ih =>
    obtain ⟨t, hd, hcur, hcrc⟩ := decoderStep_stores (h d (by simp)) s
    obtain ⟨u, hds, hucur, hucrc⟩ := ih (fun x hx => h x (by simp [hx])) t
    exact ⟨u, by rw [runDecoder_step hd, hds], hucur.trans hcur, hucrc.trans hcrc⟩

/-- A decoder that ends well on a reply delivers some events. -/
theorem answers_of_ok {ds : List DecoderStep} {r : Reply} (h : ∀ s, Claims.replyAhead s r.2.2 →
    ∃ t, runDecoder r.2.1 r.1 ds [] s = .ok () t ∧ t.cur = s.cur + (r.2.2.length + 2) ∧ t.crc = 0xFFFF) :
    Answers (fun _ => True) ds r := by
  intro s hs
  obtain ⟨t, hrun, hcur, hcrc⟩ := h s hs
  have hdec := runDecoder_decoded r.2.1 r.1 ds [] s
  rw [hrun] at hdec
  obtain ⟨ev, hev⟩ := hdec.events
  exact ⟨t, ev, hrun, hcur, hcrc, hev.symm, trivial⟩

/-- Reads of the payload's length, the CRC check and steps that store. -/
theorem answers_reads {ks : List (ReadKind × FieldName)} {tail : List DecoderStep} {r : Reply}
    (hlen : r.2.2.length = (ks.map fun k => readSize k.1).sum)
    (htail : ∀ d ∈ tail, d = .emit ∨ d = .emitIfChanged ∨ ∃ n, d = .setMode n ∧ n ∈ ks.map Prod.snd) :
    Answers (fun _ => True) (readsOf ks ++ .checkCrc :: tail) r := by
  obtain ⟨fs, hks, hl, hb⟩ := exists_fields ks r.2.2 hlen
  refine answers_of_ok fun s hs => ?_
  have hnames : (bindings fs).map Prod.fst = ks.map Prod.snd := by simp [bindings, ← hks]
  have hstores : ∀ d ∈ tail, Stores (bindings fs) d := fun d hd => by
    rw [Stores, hnames]; exact htail d hd
  obtain ⟨t, hrun, hcur, hcrc⟩ := runDecoder_stores (f := r.2.1) (a := r.1) hstores (s.checked r.2.2)
  refine ⟨t, ?_, hcur, hcrc⟩
  rw [← reads_eq_readsOf hks, reads, runDecoder_checked _ _ fs tail s r.2.2 hl hb hs]
  exact hrun

/-- Beginning a record changes nothing of what a decoder answers. -/
theorem Answers.recording {E : List Event → Prop} {ds : List DecoderStep} {r : Reply} (h : Answers E ds r) :
    Answers E (.recordChanges :: ds) r := fun s hs => h (recordChanges s) hs

/-- A Server-ID reply with a name of the length its first byte leaves. -/
theorem answers_identity {a l : Byte} {rest : List Byte} (h12 : 12 ≤ l.toNat) (hlen : rest.length = l.toNat) :
    Answers (fun _ => True) decoder17 (a, 17, l :: rest) := by
  obtain ⟨fs, hks, hl, hb⟩ := exists_fields [(.wide .u48, .uniqueId), (.u8, .ilcAppType), (.u8, .networkNodeType),
    (.u8, .ilcSelectedOptions), (.u8, .networkNodeOptions), (.u8, .majorRev), (.u8, .minorRev)] (rest.take 12)
    (by simp [readSize, wideLength]; omega)
  have hlength : Bound.get (bindings (⟨.u8, .length, [l]⟩ :: fs)) .length = some (.uint l.toNat) := by
    refine bound_get_of_unique (by simp [bindings, readValue_u8]) fun p hp hn => ?_
    rw [bindings, List.map_cons, List.mem_cons] at hp
    obtain rfl | hp := hp
    · exact readValue_u8 l
    · obtain ⟨x, hx, rfl⟩ := List.mem_map.mp hp
      have hname : x.name ∈ (fs.map fun x => (x.kind, x.name)).map Prod.snd := by
        simp only [List.map_map]
        exact List.mem_map.mpr ⟨x, hx, rfl⟩
      rw [hks, show x.name = .length from hn] at hname
      simp at hname
  have hreads : decoder17 = .recordChanges :: (reads (⟨.u8, .length, [l]⟩ :: fs) ++ identityTail) := by
    rw [reads, List.map_cons, ← reads, reads_eq_readsOf hks]
    rfl
  have hpayload : (l :: rest.take 12) ++ rest.drop 12 = l :: rest := by simp
  refine answers_of_ok fun s hs => ?_
  rw [hreads, runDecoder_identity (head := l :: rest.take 12) (name := rest.drop 12)
    (by simpa [readSize] using hl) (by simp [hb]) hlength (by simp; omega) (by rw [hpayload]; exact hs), hpayload]
  exact ⟨_, runDecoder_step (decoderStep_emitIfChanged _ _ _ _), rfl, rfl⟩

/-- Every function's default decoder answers a payload of its length. -/
theorem answers_default {c : Config} {r : Reply} (hc : Claims.defaultDecoders c) (hp : Claims.payloadOf r.2.1 r.2.2) :
    ∃ ds, Claims.registered c r.2.1 ds ∧ Answers (fun _ => True) ds r := by
  obtain ⟨h17, h18, h65, h72, h107, h67, h81, h110, h119⟩ := hc
  obtain ⟨a, f, p⟩ := r
  obtain ⟨rfl | rfl, rfl⟩ | ⟨rfl, hl⟩ | ⟨rfl, hl⟩ | ⟨rfl, hl⟩ | ⟨rfl, hl⟩ | ⟨rfl, hl⟩ | ⟨rfl, hl⟩ |
    ⟨rfl, l, rest, rfl, h12, hl⟩ := hp
  · exact ⟨_, h107, answers_reads (ks := []) rfl (by simp)⟩
  · exact ⟨_, h81, answers_reads (ks := []) rfl (by simp)⟩
  · exact ⟨_, h72, answers_reads (ks := [(.u8, .newAddress)]) hl (by simp)⟩
  · exact ⟨_, h65, (answers_reads (ks := [(.wide .u16, .mode)]) hl (by simp)).recording⟩
  · exact ⟨_, h18, (answers_reads (ks := [(.u8, .mode), (.wide .u16, .status), (.wide .u16, .faults)]) hl (by simp)).recording⟩
  · exact ⟨_, h67, answers_reads (ks := [(.u8, .status), (.wide .s32, .encoderPosition), (.wide .f32, .loadCellForce)])
      hl (by simp)⟩
  · exact ⟨_, h119, answers_reads (ks := [(.wide .f32, .primaryPush), (.wide .f32, .primaryPull),
      (.wide .f32, .secondaryPull), (.wide .f32, .secondaryPush)]) hl (by simp)⟩
  · exact ⟨_, h110, answers_reads (ks := ([CalGroup.mainADCK, .mainOffset, .mainSensitivity, .backupADCK, .backupOffset,
      .backupSensitivity]).flatMap fun k => ([0, 1, 2, 3] : List (Fin 4)).map fun i => (.wide .f32, .cal k i)) hl (by simp)⟩
  · exact ⟨_, h17, answers_identity h12 hl⟩

/-- The CRC-only replies are surfaced with no values. -/
theorem answers_empty {a f : Byte} (hf : f = 107 ∨ f = 81) :
    Answers (fun ev => ev = [.decoded f a []]) [.checkCrc, .emit] (a, f, []) := by
  intro s hs
  have hev : eventOf f a [] = .decoded f a [] := by obtain rfl | rfl := hf <;> rfl
  refine ⟨_, [.decoded f a []], runDecoder_plain (fs := []) nofun rfl hs, rfl, rfl, ?_, rfl⟩
  rw [← hev]
  rfl

theorem flatten_of_singletons {α β : Type} {g : α → β} {xs : List α} {ys : List (List β)}
    (h : List.Forall₂ (fun x y => y = [g x]) xs ys) : ys.flatten = xs.map g := by
  induction h with
  | nil => rfl
  | cons hy _ ih => rw [hy, List.flatten_cons, ih]; rfl

/-- Settles O41: a chunk of replies is answered one by one, by induction; the CRC-only replies are the empty payloads, whose
one event is known. -/
theorem matchingRepliesEmptyTheQueue : Obligations.MatchingRepliesEmptyTheQueue := by
  refine ⟨fun rs s hunb hc hp hpre hpost h107 h81 hrs hq => ?_, fun rs s ws hws hwf hc hp hpre hpost hd hrs hq => ?_⟩
  · have hans : ∀ r ∈ rs.map fun r => (r.1, r.2, ([] : List Byte)), ∃ ds, Claims.registered s.cfg r.2.1 ds ∧
        Answers (fun ev => ev = [.decoded r.2.1 r.1 []]) ds r := by
      intro r hr
      obtain ⟨⟨a, f⟩, hmem, rfl⟩ := List.mem_map.mp hr
      have hf : f = 107 ∨ f = 81 := hrs (a, f) hmem
      refine ⟨[.checkCrc, .emit], ?_, answers_empty hf⟩
      obtain rfl | rfl := hf
      · exact h107
      · exact h81
    obtain ⟨t, evs, hrun, -, hcq, hcrc, hcur, hE, hev, hempty⟩ := processResponse_answered
      (E := fun r ev => ev = [.decoded r.2.1 r.1 []]) (s := s) rfl (by rw [hunb]; rfl) hc hp hpre hpost hans
      (by rw [hq, List.map_map]; exact (List.map_id rs).symm)
    have hevs : evs.flatten = rs.map fun r => Event.decoded r.2 r.1 [] := by
      rw [flatten_of_singletons hE, List.map_map]
      rfl
    have hlen : ((rs.map fun r => (r.1, r.2, ([] : List Byte))).flatMap fun r =>
        Claims.frameWords s.cfg 0xFFFF (r.1 :: r.2.1 :: r.2.2)).length = 4 * rs.length := by
      simp [Claims.frameWords, Function.comp_def, Nat.mul_comm]
    rw [hlen, List.flatMap_map] at hrun
    exact ⟨t, hrun, hcq, hcrc, hcur, by rw [hev, hevs], hempty⟩
  · obtain ⟨t, evs, hrun, hbuf, hcq, hcrc, hcur, -, hev, hempty⟩ := processResponse_answered (E := fun _ _ => True)
      hws hwf hc hp hpre hpost (fun r hr => answers_default hd (hrs r hr)) hq
    exact ⟨t, hrun, hbuf, hcq, hcrc, hcur, by rw [hev]; exact List.prefix_append _ _, hempty⟩

end Sys2Proof.Machine

/-! # The arbiter and the driver

The arbiter's table, each row's action, the words of a request against the reserved words, and the two phases of a response read;
O59, O60. -/

namespace Sys2Proof.Machine

open Sys2Proof

/-! ## O59: the arbiter -/

/-- A step that completes the operation at the head of the list. -/
theorem step_completes {s u : State} {o : HostOp} {rest : List HostOp} {r : Result} (h : s.ops = o :: rest)
    (hrun : runOp o s.begin = .next (u.complete r)) : step s = .next { u with result := some r, ops := rest } := by
  have hstep : step s = .next (u.complete r) := (step_cons h).trans hrun
  obtain ⟨-, hops⟩ := everyOperationEndsInOneResult s _ o rest h hstep
  rw [hstep, ← hops]
  rfl

/-- An arbiter action's end is as the table says. -/
def FollowsTable (a : ArbAction) (st : ArbState) : Ran Value → Prop
  | .ok v t => ∃ ws, (∀ ws', v = .words ws' → ws = ws') ∧ Claims.arbiterTable st a ws = some t.arb
  | .err _ t => t.arb = .fault
  | .stop _ => True

/-- A row whose action returns no value. -/
theorem followsTable_noValue {a : ArbAction} {st next : ArbState} (r : Ran Unit)
    (hrow : Claims.arbiterTable st a [] = some next) : FollowsTable a st (arbGoto r.noValue fun _ => next) := by
  cases r with
  | ok u t => exact ⟨[], nofun, hrow⟩
  | err e t => exact rfl
  | stop x => exact trivial

/-- A row whose action returns words. -/
theorem followsTable_words {a : ArbAction} {st : ArbState} {next : List Word → ArbState} (r : Ran (List Word))
    (hrow : ∀ ws t, r = .ok ws t → Claims.arbiterTable st a ws = some (next ws)) :
    FollowsTable a st ((arbGoto r next).map Value.words) := by
  cases r with
  | ok ws t => exact ⟨ws, fun ws' h => by cases h; rfl, hrow ws t rfl⟩
  | err e t => exact rfl
  | stop x => exact trivial

theorem arbiterStep_followsTable (a : ArbAction) (s : State) : FollowsTable a s.arb (arbiterStep a s) := by
  unfold arbiterStep
  split
  case h_6 timeout harb =>
    refine followsTable_words _ fun ws t h => ?_
    cases h
    rw [harb]
    simp [Claims.arbiterTable, afterCount, apply_ite some]
  case h_7 n timeout harb => exact followsTable_words _ fun ws t _ => by rw [harb]; rfl
  case h_8 ws more harb => exact followsTable_noValue _ (by rw [harb]; cases more <;> rfl)
  case h_2 r harb => exact followsTable_noValue _ (by rw [harb]; rfl)
  case h_4 timeout harb => exact followsTable_noValue _ (by rw [harb]; rfl)
  case h_9 timeout harb => exact followsTable_noValue _ (by rw [harb]; rfl)
  case h_11 => trivial
  all_goals
    rename_i harb
    exact ⟨[], nofun, by rw [harb]; rfl⟩

/-- The three answers of an arbiter step. -/
theorem step_arbiter_follows {s : State} {a : ArbAction} {rest : List HostOp} (h : s.ops = .arbiter a :: rest) :
    (∀ t v, step s = .next t → t.result = some (.ok v) →
      ∃ ws, (∀ ws', v = .words ws' → ws = ws') ∧ Claims.arbiterTable s.arb a ws = some t.arb) ∧
    (∀ t e, step s = .next t → t.result = some (.err e) → t.arb = .fault) ∧
    (Claims.arbiterTable s.arb a [0] = none → step s = .refused .arbiterNoTransition) := by
  have hfollows := arbiterStep_followsTable a s.begin
  have hstep : step s = finish (arbiterStep a s.begin) := step_cons h
  refine ⟨fun t v ht hv => ?_, fun t e ht he => ?_, fun hnone => ?_⟩
  · obtain ⟨v', u, hu, rfl⟩ | ⟨e, u, -, rfl⟩ := finish_eq_next (hstep.symm.trans ht)
    · rw [hu] at hfollows
      cases hv
      exact hfollows
    · cases hv
  · obtain ⟨v', u, -, rfl⟩ | ⟨e', u, hu, rfl⟩ := finish_eq_next (hstep.symm.trans ht)
    · cases he
    · rw [hu] at hfollows
      exact hfollows
  · rw [hstep, arbiterStep_of_noRow (s := s.begin) hnone]
    rfl

/-- All of a list without reserved words is pushed. -/
theorem writeCommandFifo_whole {ws : List Word} {s : State} (h : ∀ w ∈ ws, ¬ Claims.reserved s.cfg w) :
    writeCommandFifo ws ws.length s = .ok () (s.setDriver
      { s.driver with commandFifo := s.driver.commandFifo ++ ws }) := by
  rw [writeCommandFifo_of_unreserved (by rw [List.take_length]; exact h), firstWords_of_le _ (Nat.le_refl _), List.take_length,
    Nat.sub_self]
  rfl

section
variable {s : State} {timeout : Nat}

theorem arbiterStep_idle (h : s.arb = .idle) :
    arbiterStep (.advance timeout) s = .ok .none ((clearOp true s).setArb .compose) := by
  simp only [arbiterStep, h]; rfl

theorem arbiterStep_build (h : s.arb = .compose) (r : Request) :
    arbiterStep (.build r) s = arbGoto (runRequest r s).noValue fun _ => .compose := by
  simp only [arbiterStep, h]

theorem arbiterStep_batchComplete (h : s.arb = .compose) : arbiterStep .batchComplete s = .ok .none (s.setArb .send) := by
  simp only [arbiterStep, h]; rfl

/-- The snapshot is pushed whole. -/
theorem arbiterStep_send (h : s.arb = .send) (hw : ∀ w ∈ s.buf, ¬ Claims.reserved s.cfg w) :
    arbiterStep (.advance timeout) s = .ok .none ((s.setDriver
      { s.driver with commandFifo := s.driver.commandFifo ++ s.buf }).setArb .request) := by
  simp only [arbiterStep, h, writeCommandFifo_whole hw]; rfl

theorem arbiterStep_signal (h : s.arb = .request) (args : List Word) :
    arbiterStep (.signal args) s = .ok .none ((writeRequestFifo args s).setArb .readCount) := by
  simp only [arbiterStep, h]; rfl

theorem arbiterStep_process {ws : List Word} (h : s.arb = .process ws) (more : Bool) :
    arbiterStep (.process more) s =
      arbGoto (processResponse ws ws.length s).noValue fun _ => if more then .readCount else .check := by
  simp only [arbiterStep, h]

theorem arbiterStep_check (h : s.arb = .check) :
    arbiterStep (.advance timeout) s = arbGoto (checkCommandedEmpty s).noValue fun _ => .idle := by
  simp only [arbiterStep, h]

theorem arbiterStep_fault (h : s.arb = .fault) :
    arbiterStep (.advance timeout) s = .ok .none ((clearOp false (flushResponses s)).setArb .idle) := by
  simp only [arbiterStep, h]; rfl

/-- Phase 1 with a count that fits its word. -/
theorem readCount_of_fits {n : Nat} (hl : s.driver.responseFifo.length = n) (hn : n < 65536) :
    readCount s = .ok [BitVec.ofNat 16 n] (s.setDriver { s.driver with counted := some (BitVec.ofNat 16 n) }) := by
  subst hl
  simp only [readCount, availableCount, if_pos hn]; rfl

theorem ofNat_eq_zero_iff {n : Nat} (hn : n < 65536) : (BitVec.ofNat 16 n : Word) = 0 ↔ n = 0 := by
  rw [← BitVec.toNat_inj, BitVec.toNat_ofNat, Nat.mod_eq_of_lt hn]
  rfl

theorem arbiterStep_readCount {n : Nat} (h : s.arb = .readCount) (hl : s.driver.responseFifo.length = n) (hn : n < 65536) :
    arbiterStep (.advance timeout) s = .ok (.words [BitVec.ofNat 16 n])
      ((s.setDriver { s.driver with counted := some (BitVec.ofNat 16 n) }).setArb
        (if n = 0 then .check else .readWords (BitVec.ofNat 16 n))) := by
  simp only [arbiterStep, h, readCount_of_fits hl hn, arbGoto, afterCount, Ran.map, ofNat_eq_zero_iff hn]

/-- Phase 2 inside its contract. -/
theorem readWords_of_awaits {n : Nat} (h : s.driver.awaits n = true) :
    readWords n s = .ok (s.driver.responseFifo.take n)
      (s.setDriver { s.driver with responseFifo := s.driver.responseFifo.drop n, counted := none }) := by
  rw [readWords, if_pos h]

theorem awaits_iff {d : Driver} {n : Nat} :
    d.awaits n = true ↔ d.counted.map BitVec.toNat = some n ∧ n ≤ d.responseFifo.length := by
  simp [Driver.awaits]

theorem arbiterStep_readWords {n : Word} (h : s.arb = .readWords n) (hc : s.driver.counted = some n)
    (hl : n.toNat ≤ s.driver.responseFifo.length) :
    arbiterStep (.advance timeout) s = .ok (.words (s.driver.responseFifo.take n.toNat))
      ((s.setDriver { s.driver with responseFifo := s.driver.responseFifo.drop n.toNat, counted := none }).setArb
        (.process (s.driver.responseFifo.take n.toNat))) := by
  simp only [arbiterStep, h, readWords_of_awaits (awaits_iff.mpr ⟨by rw [hc]; rfl, hl⟩)]; rfl

end

/-- A step whose arbiter action ends well. -/
theorem step_arbiter_ok {s u : State} {a : ArbAction} {rest : List HostOp} {v : Value} (h : s.ops = .arbiter a :: rest)
    (hrun : arbiterStep a s.begin = .ok v u) : step s = .next { u with result := some (.ok v), ops := rest } :=
  step_completes h (by rw [runOp, hrun, finish_ok])

/-- A step whose arbiter action ends in an error. -/
theorem step_arbiter_err {s u : State} {a : ArbAction} {rest : List HostOp} {e : Err} (h : s.ops = .arbiter a :: rest)
    (hrun : arbiterStep a s.begin = .err e u) : step s = .next { u with result := some (.err e), ops := rest } :=
  step_completes h (by rw [runOp, hrun, finish_err])

/-- The queue check ends the conversation, or goes to FAULT. -/
theorem step_check {s : State} {timeout : Nat} {rest : List HostOp} (h : s.ops = .arbiter (.advance timeout) :: rest)
    (harb : s.arb = .check) : step s = .next { s with
      arb := if s.cq = [] then .idle else .fault
      result := some (if s.cq = [] then .ok .none else .err (.commandedNonEmpty s.cq)), events := [], ops := rest } := by
  have hrow := arbiterStep_check (s := s.begin) (timeout := timeout) harb
  by_cases hq : s.cq = []
  · rw [if_pos hq, if_pos hq]
    exact step_arbiter_ok h (hrow.trans (by rw [checkCommandedEmpty, if_pos (by exact hq)]; rfl))
  · rw [if_neg hq, if_neg hq]
    exact step_arbiter_err h (hrow.trans (by rw [checkCommandedEmpty, if_neg (by exact hq)]; rfl))

/-- Settles O59: the action of each row, on the begun state, goes to the table's next state after `Ok` and to FAULT after `Err`. -/
theorem arbiterFollowsItsTable : Obligations.ArbiterFollowsItsTable := by
  refine ⟨fun s a rest hops => step_arbiter_follows hops, fun s timeout rest hops =>
    ⟨fun harb => step_arbiter_ok hops (arbiterStep_idle harb),
      fun harb hw => step_arbiter_ok hops (arbiterStep_send harb hw),
      fun n harb hl hn => step_arbiter_ok hops (arbiterStep_readCount harb hl hn),
      fun n harb hc hl => step_arbiter_ok hops (arbiterStep_readWords harb hc hl),
      step_check hops,
      fun harb => step_arbiter_ok hops (arbiterStep_fault harb)⟩,
    fun s rest harb hops => step_arbiter_ok hops (arbiterStep_batchComplete harb),
    fun s rest args harb hops => step_arbiter_ok hops (arbiterStep_signal (s := s.begin) harb args),
    fun s t rest r harb hops => ?_, fun s t rest ws more harb hops => ?_⟩
  · have hrow := arbiterStep_build (s := s.begin) harb r
    exact ⟨fun hr => step_arbiter_ok hops (hrow.trans (by rw [hr]; rfl)),
      fun e hr => step_arbiter_err hops (hrow.trans (by rw [hr]; rfl))⟩
  · have hrow := arbiterStep_process (s := s.begin) harb more
    exact ⟨fun hr => step_arbiter_ok hops (hrow.trans (by rw [hr]; rfl)),
      fun e hr => step_arbiter_err hops (hrow.trans (by rw [hr]; rfl))⟩

/-! ## O60: the driver's calls -/

/-- A word below 0xC000 is reserved only in the ILC dialect, below 0x1000. -/
theorem not_reserved_of_range {c : Config} {w : Word} (hlow : c.dialect = .ilc → 0x1000 ≤ w.toNat) (hhigh : w.toNat < 0xC000) :
    ¬ Claims.reserved c w := by
  rintro ⟨-, -, ⟨hilc, h⟩ | ⟨h, -⟩⟩
  · exact absurd (hlow hilc) (Nat.not_le.mpr h)
  · exact absurd hhigh (Nat.not_lt.mpr h)

/-- The range of a word's nibble is the range of the word. -/
theorem toNat_of_nibble {w : Word} {n : Nibble} (h : nibble w = n) : n.toNat * 4096 ≤ w.toNat ∧ w.toNat < (n.toNat + 1) * 4096 := by
  have := toNat_nibble w
  rw [h] at this
  omega

theorem not_reserved_encByte {c : Config} (hc : Claims.ilcFields c) (b : Byte) : ¬ Claims.reserved c (c.encByte b) := by
  cases hd : c.dialect with
  | ilc =>
    obtain ⟨hmask, -, -⟩ := hc hd
    have hn : nibble (c.encByte b) = 1 := by rw [Config.nibble_encByte_of_ilc hd, hmask]; rfl
    obtain ⟨hl, hh⟩ := toNat_of_nibble hn
    exact not_reserved_of_range (fun _ => hl) (Nat.lt_of_lt_of_le hh (by decide))
  | plain =>
    refine not_reserved_of_range (by simp [hd]) ?_
    have hb := b.isLt
    have hword : (c.encByte b).toNat = b.toNat := by
      simp [Config.encByte, hd]
      omega
    omega

theorem not_reserved_txFrameend (c : Config) : ¬ Claims.reserved c c.txFrameend := fun h => h.1 rfl

theorem nibble_waitWord (us : Micros) (c : Config) :
    nibble (waitWord us c) = c.waitShortCmd ∨ nibble (waitWord us c) = c.waitLongCmd := by
  unfold waitWord timeWord
  split
  · exact .inl (nibble_mkWord _ _)
  · exact .inr (nibble_mkWord _ _)

theorem not_reserved_waitWord {c : Config} (hc : Claims.ilcFields c) (us : Micros) : ¬ Claims.reserved c (waitWord us c) := by
  have hn := nibble_waitWord us c
  cases hd : c.dialect with
  | ilc =>
    obtain ⟨-, hs, hl⟩ := hc hd
    rw [hs, hl] at hn
    obtain hn | hn := hn
    · obtain ⟨hlow, hhigh⟩ := toNat_of_nibble hn
      exact not_reserved_of_range (fun _ => Nat.le_trans (by decide) hlow) (Nat.lt_of_lt_of_le hhigh (by decide))
    · obtain ⟨hlow, hhigh⟩ := toNat_of_nibble hn
      exact not_reserved_of_range (fun _ => Nat.le_trans (by decide) hlow) (Nat.lt_of_lt_of_le hhigh (by decide))
  | plain =>
    rintro ⟨-, -, ⟨hilc, -⟩ | ⟨-, hilc | ⟨hs, hl⟩⟩⟩
    · simp [hd] at hilc
    · simp [hd] at hilc
    · exact hn.elim hs hl

/-- The words of a request may be sent. -/
theorem not_reserved_requestWords {c : Config} (hc : Claims.ilcFields c) {crc : Word} {bytes : List Byte} {us : Micros} :
    ∀ w ∈ Claims.requestWords c crc bytes us, ¬ Claims.reserved c w := by
  intro w hw
  simp only [requestWords_eq, frameWords_eq, List.mem_append, List.mem_map, List.mem_cons, List.not_mem_nil, or_false] at hw
  obtain (⟨b, -, rfl⟩ | rfl | rfl) | rfl | rfl := hw
  · exact not_reserved_encByte hc b
  · exact not_reserved_encByte hc _
  · exact not_reserved_encByte hc _
  · exact not_reserved_txFrameend c
  · exact not_reserved_waitWord hc us

/-- The words pushed, and free words past the end of those given. -/
theorem writeCommandFifo_pushes {ws : List Word} {n : Nat} {s : State} (h : ∀ w ∈ ws.take n, ¬ Claims.reserved s.cfg w) :
    ∃ extra free, extra.length = n - ws.length ∧ (n ≤ ws.length → free = s.free) ∧
      writeCommandFifo ws n s = .ok () { s with
        driver := { s.driver with commandFifo := s.driver.commandFifo ++ (ws.take n ++ extra) }, free := free } :=
  ⟨(List.range (n - ws.length)).map fun i => Config.freeWord (s.free + i), s.free + (n - ws.length), by simp,
    fun hn => by rw [Nat.sub_eq_zero_of_le hn]; rfl, writeCommandFifo_of_unreserved h⟩

/-- Phase 1 and phase 2 of a response read from an idle driver. -/
theorem readU16ResponseFifo_phases {s : State} {ws : List Word} (hfifo : s.driver.responseFifo = [])
    (hcounted : s.driver.counted = none) (hn : ws.length < 65536) :
    ∃ t, readU16ResponseFifo 1 (fpgaSupply ws s) = .ok [BitVec.ofNat 16 ws.length] t ∧
      readU16ResponseFifo ws.length t = .ok ws s := by
  let counted : State := { s with driver := { s.driver with
    responseFifo := ws, counted := some (BitVec.ofNat 16 ws.length) } }
  have hsupply : fpgaSupply ws s = { s with driver := { s.driver with responseFifo := ws } } := by
    rw [fpgaSupply, hfifo]; rfl
  refine ⟨counted, ?_, ?_⟩
  · have hidle : (fpgaSupply ws s).driver.awaits 1 = false := by simp [Driver.awaits, hsupply, hcounted]
    rw [readU16ResponseFifo, if_pos ⟨rfl, hidle⟩, hsupply]
    exact readCount_of_fits rfl hn
  · have hwaits : counted.driver.awaits ws.length = true :=
      awaits_iff.mpr ⟨by simp [counted, Nat.mod_eq_of_lt hn], Nat.le_refl _⟩
    have hempty : counted.setDriver { counted.driver with responseFifo := [], counted := none } = s := by
      rw [← hfifo, ← hcounted]; rfl
    rw [readU16ResponseFifo, if_neg (by simp [hwaits]), readWords_of_awaits hwaits]
    show Ran.ok (ws.take ws.length) (counted.setDriver { counted.driver with
      responseFifo := ws.drop ws.length, counted := none }) = _
    rw [List.take_length, List.drop_length, hempty]

/-- A read of any length gives so many words. -/
theorem readU16ResponseFifo_length (n : Nat) (s : State) : ∃ ws fifo counted free, ws.length = n ∧
    readU16ResponseFifo n s = .ok ws { s with
      driver := { s.driver with responseFifo := fifo, counted := counted }, free := free } := by
  unfold readU16ResponseFifo
  split
  case isTrue h =>
    obtain ⟨rfl, -⟩ := h
    exact ⟨[availableCount s.driver.responseFifo s.free], _, _, _, rfl, rfl⟩
  case isFalse h =>
    cases haw : s.driver.awaits n with
    | true =>
      have hl := (awaits_iff.mp haw).2
      exact ⟨_, _, _, s.free, List.length_take_of_le hl, readWords_of_awaits haw⟩
    | false => exact ⟨firstWords [] n s.free, _, _, _, length_firstWords _ _ _, by rw [readWords, haw]; rfl⟩

/-- Settles O60: the words of a request have the nibble of a byte word, the sentinel or a wait command, none of them reserved; a
read counts what the driver holds and then takes it. -/
theorem driverCallsMoveWordsOnly : Obligations.DriverCallsMoveWordsOnly := by
  refine ⟨fun ws n s h => writeCommandFifo_pushes h, ?_, fun s rest args hops => ?_,
    fun s ws hfifo hcounted hn => readU16ResponseFifo_phases hfifo hcounted hn, readU16ResponseFifo_length⟩
  · rintro s rest timeout crc bytes us ws rfl hc hops
    have hpush := writeCommandFifo_whole (s := s.begin) (ws := Claims.requestWords s.cfg crc bytes us)
      (not_reserved_requestWords hc)
    exact step_completes hops (by rw [runOp, hpush]; rfl)
  · exact step_completes hops (u := writeRequestFifo args s.begin) rfl

end Sys2Proof.Machine
